-- ==== Sys2Proof/Word.lean ====
section
/-! DEFINITION. The 16-bit word and the port, pool and handle numbers of the PM416. -/

namespace Sys2Proof

/-- A word is 16 bits (00_scope.md, Conventions). -/
abbrev Word := BitVec 16

/-- A client port, 0 to 3. -/
abbrev Port := Fin 4

/-- A pool number, 0 to 15. -/
abbrev PoolId := Fin 16

/-- A handle number. The table has the numbers 0 to 4095 (R1); the type is the plain count. -/
abbrev HandleNo := Nat

/-- A count or number as an unsigned value in a whole word (R155). -/
abbrev word (n : Nat) : Word := BitVec.ofNat 16 n

/-- The four ports, lowest first. -/
abbrev allPorts : List Port := [0, 1, 2, 3]

/-- The sixteen pools, lowest first. -/
abbrev allPools : List PoolId := [0, 1, 2, 3, 4, 5, 6, 7, 8, 9, 10, 11, 12, 13, 14, 15]

end Sys2Proof
end

