-- ==== Sys2Proof/Syntax.lean ====
section
/-! DEFINITION. The commands of the block: one constructor for each row of spec/opcode_table.json. -/

namespace Sys2Proof

/-- One whole, indivisible event of the PM416 (spec/95_what_each_step_holds.md).
The commands a master posts carry the issuing port only: their code, tag, flags and argument words
stand in the port's command queue (R96, R101; log 4). -/
inductive Instr where
  -- Commands that the pool engine takes from the queue of port p
  | join (p : Port)
  | leave (p : Port)
  | allocate (p : Port)
  | release (p : Port)
  | retain (p : Port)
  | send (p : Port)
  | take (p : Port)
  | refuse (p : Port)
  | describe (p : Port)
  | inspect (p : Port)
  | watch (p : Port)
  | unwatch (p : Port)
  | cancel (p : Port)
  | poolstat (p : Port)
  | survey (p : Port)
  | lease (p : Port)
  | unlease (p : Port)
  | create (p : Port)
  | quota (p : Port)
  | close (p : Port)
  | recount (p : Port)
  | retire (p : Port)
  | restore (p : Port)
  | evict (p : Port)
  | unknownCommand (p : Port)
  -- Accesses to the window of port p
  | commandPost (p : Port) (w : Word)
  | attnWrite (p : Port) (w : Word)
  | attnenWrite (p : Port) (w : Word)
  | respop (p : Port) (w : Word)
  | watchsetRead (p : Port)
  | registerWrite (p : Port) (offset : BitVec 4) (w : Word)
  -- The port reset input of port p
  | portResetWindow (p : Port)
  | portResetMembership (p : Port)
  | portResetRelease (p : Port)
  -- Device reset and initialization
  | deviceReset
  | deviceResetRelease
  | initializationWrite
  | deviceReady
  -- The lease unit's tick
  | millisecondTick
  | leaseExpiry
  -- The reclaim sweep of port p and the recount of pool k
  | reclaimStep (p : Port)
  | sweepCompletion (p : Port)
  | recountStep (k : PoolId)
  | recountCompletion (k : PoolId)
  -- What happens inside other events
  | grant (h : Fin 4096)
  | watchFire (k : PoolId) (p : Port)
  | drainCompletion (k : PoolId)
deriving DecidableEq, Repr

end Sys2Proof
end

