-- ==== Sys2Proof/Machine/Types.lean ====
section
/-! DEFINITION. The records the PM416 keeps, as plain data: handle, pool, recount, port, delivery, window, lease. -/

namespace Sys2Proof.Machine

/-- Why a handle was retired (R1). -/
inductive RetireReason where
  | admin
  | check
deriving DecidableEq, Repr

/-- The four states of a handle (R2), each with the fields Table 1-1 says are present in it:
the pool in FREE, IN_USE and RETIRED, the retire reason in RETIRED only. -/
inductive HandleState where
  | unassigned
  | free (pool : PoolId)
  | inUse (pool : PoolId)
  | retired (pool : PoolId) (reason : RetireReason)
deriving DecidableEq, Repr, Inhabited

/-- One handle record (R1, Table 1-1). `verifies` says whether the stored entry check is the check
code of the other fields; the code itself is not given by the spec (R11, log 2). -/
structure HandleRec where
  state    : HandleState
  gen      : BitVec 4
  holds    : Vector Nat 4
  transit  : Nat
  length   : Word
  tag      : Word
  verifies : Bool
deriving DecidableEq, Repr, Inhabited

/-- A record with no references and no descriptor words, its entry check written fresh. -/
def HandleRec.blank (st : HandleState) (g : BitVec 4) : HandleRec :=
  ⟨st, g, Vector.replicate 4 0, 0, 0, 0, true⟩

/-- The record as the initialization controller writes it (R145). -/
def HandleRec.initial : HandleRec := HandleRec.blank .unassigned 0

/-- The device state (R144, R145): while INITIALIZING, the next record to write. -/
inductive DeviceState where
  | initializing (next : Nat)
  | ready
deriving DecidableEq, Repr

/-- The lease record (R135, Table 8-1). -/
inductive Lease where
  | vacant
  | held (holder : Port) (remaining : Nat)
deriving DecidableEq, Repr

/-- A port's membership (R116), with the sweep pointer that is present only while RECLAIMING (R115). -/
inductive Membership where
  | offline
  | online
  | reclaiming (pointer : Nat)
deriving DecidableEq, Repr

/-- The kind of a delivery (Table 4-1). -/
inductive Kind where
  | sent
  | returned
deriving DecidableEq, Repr

/-- The class of a delivery (Table 4-1). -/
inductive DeliveryClass where
  | normal
  | urgent
deriving DecidableEq, Repr

/-- A delivery (R66, Table 4-1). Its class is the list of the inbound queue it stands in. -/
structure Delivery where
  token  : Word
  sender : Port
  kind   : Kind
deriving DecidableEq, Repr

/-- A port's inbound queue (R66, R67): the deliveries of each class, oldest first. -/
structure Inbound where
  urgent : List Delivery
  normal : List Delivery
deriving DecidableEq, Repr

/-- A port record of the pool engine (R115, Table 7-1), with the port's inbound queue (R66). -/
structure Member where
  membership : Membership
  evicted    : Bool
  inbound    : Inbound
deriving DecidableEq, Repr

/-- An entry of a pool's wait list (R50). -/
structure WaitEntry where
  port : Port
  tag  : BitVec 4
deriving DecidableEq, Repr

/-- A recount record (R85, Table 5-1). -/
structure RecountRec where
  shadow    : Vector Nat 4
  pointer   : Nat
  requester : Option Port
  disturbed : Bool
deriving DecidableEq, Repr

/-- The three states of a pool (R23). -/
inductive PoolState where
  | unconfigured
  | active
  | draining
deriving DecidableEq, Repr

/-- A pool record (R21, Table 2-1) with its free stack, top first (R24). The fields that are absent
while UNCONFIGURED are held as 0, as POOLSTAT reports them (R29, log 8). Depth is the length of the
stack (R24). -/
structure PoolRec where
  state         : PoolState
  first         : Nat
  count         : Nat
  stack         : List HandleNo
  retired       : Nat
  quota         : Vector Nat 4
  charge        : Vector Nat 4
  recountNeeded : Bool
  recount       : Option RecountRec
  closer        : Option Port
  watches       : Vector (Option Nat) 4
  waitList      : List WaitEntry
deriving DecidableEq, Repr

/-- The pool record of an UNCONFIGURED pool (R21, the Reset column of Table 2-1). -/
def PoolRec.unconfigured : PoolRec where
  state         := .unconfigured
  first         := 0
  count         := 0
  stack         := []
  retired       := 0
  quota         := Vector.replicate 4 0
  charge        := Vector.replicate 4 0
  recountNeeded := false
  recount       := none
  closer        := none
  watches       := Vector.replicate 4 none
  waitList      := []

/-- The status of a result (Table 10-8). -/
inductive Status where
  | ok | empty | poolEmpty | quota | noPool | poolDraining | stale | retired
  | notHolder | holdLimit | transitLimit | badDest | destOffline | destFull | waitBusy | cancelled
  | nothingWaiting | noLease | leaseBusy | notLeaseHolder | badArg | rangeConflict | poolBusy | recountBusy
  | checkFault | dropped | notJoined | unknownCommand | alreadyRetired | notRetired | notOnline | alreadyJoined
deriving DecidableEq, Repr

/-- The four data words of a result; a word no rule names reads 0000h (R102). -/
structure Data where
  res1 : Word := 0
  res2 : Word := 0
  res3 : Word := 0
  res4 : Word := 0
deriving DecidableEq, Repr

/-- A result: its header's fields and its data words (R102). -/
structure Result where
  code   : BitVec 6
  tag    : BitVec 4
  status : Status
  data   : Data
deriving DecidableEq, Repr

/-- An entry of a command queue (R96). -/
structure Entry where
  code  : BitVec 6
  tag   : BitVec 4
  flagA : Bool
  flagB : Bool
  arg0  : Word
  arg1  : Word
  arg2  : Word
deriving DecidableEq, Repr

/-- The six sticky attention causes (R106). The level causes RESULT and INBOUND are computed. -/
inductive Cause where
  | watch | pool | lease | peer | fault | overrun
deriving DecidableEq, Repr

/-- The sticky causes of a port, each set or clear. -/
structure Sticky where
  watch   : Bool
  pool    : Bool
  lease   : Bool
  peer    : Bool
  fault   : Bool
  overrun : Bool
deriving DecidableEq, Repr

/-- Every sticky cause clear. -/
def Sticky.clear : Sticky := ⟨false, false, false, false, false, false⟩

/-- The port interface: the window's state (R94 to R111). -/
structure Window where
  arg0          : Word
  arg1          : Word
  arg2          : Word
  queue         : List Entry
  results       : List Result
  reserved      : Nat
  sticky        : Sticky
  enables       : BitVec 8
  watchFired    : BitVec 16
  resetAsserted : Bool
deriving DecidableEq, Repr

/-- The levels of a port's bus pins at one instant. A strobe or select is true while its pin is low. -/
structure BusPins where
  cs   : Bool
  rd   : Bool
  wr   : Bool
  addr : BitVec 4
  data : Word
deriving DecidableEq, Repr

/-- A port's bus (R149): the pins as they stand, whether the current read enable has arrived, whether
PxRD_N has been low at any time during the current write enable, and the word captured at the last read. -/
structure BusPhase where
  before      : BusPins
  readArrived : Bool
  writeSpoilt : Bool
  readData    : Word
deriving DecidableEq, Repr

/-- How a disposal ended (Table 10-10, disposition). -/
inductive Disposition where
  | notDisposed
  | free
  | granted (waiter : Port)
deriving DecidableEq, Repr

end Sys2Proof.Machine
end

