-- ==== Sys2Proof/Config.lean ====
section
/-! DEFINITION. What the spec leaves open: the contents of the handle table before initialization. -/

namespace Sys2Proof

/-- What a handle record holds between the assertion of RST_N and its rewriting by initialization:
'contents undefined until rewritten by initialization' (R144). A FREE VALUE with no body: nothing can be
proved of it. The first argument is State.era (which device reset the contents belong to), the second
the handle number (log 1). -/
opaque Config.undefinedRecord : Nat → HandleNo → Machine.HandleRec

end Sys2Proof
end

