-- ==== Sys2Proof/Machine/HandleTable.lean ====
section
/-! DEFINITION. The handle table as a list of (handle number, record) pairs in one canonical form. -/

namespace Sys2Proof.Machine

/-- The record at a handle number. A number not listed reads as the freshly initialised record (R145). -/
def Table.get (h : HandleNo) : List (Nat × HandleRec) → HandleRec
  | [] => .initial
  | (k, r) :: rest => if k = h then r else Table.get h rest

/-- Insert a pair before the first listed number that is not below it. -/
def Table.insert (h : HandleNo) (r : HandleRec) : List (Nat × HandleRec) → List (Nat × HandleRec)
  | [] => [(h, r)]
  | (k, q) :: rest => if k < h then (k, q) :: Table.insert h r rest else (h, r) :: (k, q) :: rest

/-- The table without any entry for a handle number. -/
def Table.remove (h : HandleNo) : List (Nat × HandleRec) → List (Nat × HandleRec)
  | [] => []
  | (k, q) :: rest => if k = h then Table.remove h rest else (k, q) :: Table.remove h rest

/-- Put a record at a handle number, keeping the numbers strictly rising and listing no record equal to
the freshly initialised one. -/
def Table.put (h : HandleNo) (r : HandleRec) (t : List (Nat × HandleRec)) : List (Nat × HandleRec) :=
  if r = .initial then Table.remove h t else Table.insert h r (Table.remove h t)

/-- Every number listed is at least `low`, the numbers rise strictly, and no listed record is the
freshly initialised one. -/
def Table.wfFrom (low : Nat) : List (Nat × HandleRec) → Bool
  | [] => true
  | (k, r) :: rest => decide (low ≤ k) && decide (r ≠ .initial) && Table.wfFrom (k + 1) rest

/-- The canonical form of the handle table, so that equal tables are equal lists. -/
def Table.wf (t : List (Nat × HandleRec)) : Bool :=
  Table.wfFrom 0 t

end Sys2Proof.Machine
end

