-- ==== Sys2Proof/Machine/Operands.lean ====
section
/-! DEFINITION. The words a master writes: tokens, argument words and the command word (Chapter 10). -/

namespace Sys2Proof.Machine

/-- The handle number of a token, bits 11..0 (Table 10-7). -/
def tokenHandle (t : Word) : HandleNo := (t.extractLsb' 0 12).toNat

/-- The generation of a token, bits 15..12 (Table 10-7). -/
def tokenGen (t : Word) : BitVec 4 := t.extractLsb' 12 4

/-- The token of a handle under a generation (R4, Table 10-7). -/
def mkToken (g : BitVec 4) (h : HandleNo) : Word := g ++ BitVec.ofNat 12 h

/-- A pool number argument, compared over all sixteen bits with 0..15 (R151). -/
def poolArg (w : Word) : Option PoolId :=
  if h : w.toNat < 16 then some ⟨w.toNat, h⟩ else none

/-- A port number argument, compared over all sixteen bits with 0..3 (R151). -/
def portArg (w : Word) : Option Port :=
  if h : w.toNat < 4 then some ⟨w.toNat, h⟩ else none

/-- A bare handle number argument, compared over all sixteen bits with 0..4095 (R4, R151). -/
def handleArg (w : Word) : Option HandleNo :=
  if w.toNat < 4096 then some w.toNat else none

/-- The queue entry of a word written to CMD with the arguments as they stand (R96, R151, Table 10-5):
code in bits 5..0, tag in 9..6, flag A in 10, flag B in 11; bits 15..12 are not stored. -/
def commandEntry (w arg0 arg1 arg2 : Word) : Entry where
  code  := w.extractLsb' 0 6
  tag   := w.extractLsb' 6 4
  flagA := w.getLsbD 10
  flagB := w.getLsbD 11
  arg0  := arg0
  arg1  := arg1
  arg2  := arg2

/-- The command codes 01h to 18h (Table 10-9). -/
def Code.join : BitVec 6 := 0x01
def Code.leave : BitVec 6 := 0x02
def Code.allocate : BitVec 6 := 0x03
def Code.release : BitVec 6 := 0x04
def Code.retain : BitVec 6 := 0x05
def Code.send : BitVec 6 := 0x06
def Code.take : BitVec 6 := 0x07
def Code.refuse : BitVec 6 := 0x08
def Code.describe : BitVec 6 := 0x09
def Code.inspect : BitVec 6 := 0x0A
def Code.watch : BitVec 6 := 0x0B
def Code.unwatch : BitVec 6 := 0x0C
def Code.cancel : BitVec 6 := 0x0D
def Code.poolstat : BitVec 6 := 0x0E
def Code.survey : BitVec 6 := 0x0F
def Code.lease : BitVec 6 := 0x10
def Code.unlease : BitVec 6 := 0x11
def Code.create : BitVec 6 := 0x12
def Code.quota : BitVec 6 := 0x13
def Code.close : BitVec 6 := 0x14
def Code.recount : BitVec 6 := 0x15
def Code.retire : BitVec 6 := 0x16
def Code.restore : BitVec 6 := 0x17
def Code.evict : BitVec 6 := 0x18

/-- Whether a code names a command: 01h to 18h do, 00h and 19h to 3Fh do not (R151). -/
def Code.named (c : BitVec 6) : Bool := decide (1 ≤ c.toNat) && decide (c.toNat ≤ 0x18)

/-- The offsets of the window (Table 6-1, Table 10-1). -/
def Offset.pstat : BitVec 4 := 0x0
def Offset.attn : BitVec 4 := 0x1
def Offset.attnen : BitVec 4 := 0x2
def Offset.arg0 : BitVec 4 := 0x3
def Offset.arg1 : BitVec 4 := 0x4
def Offset.arg2 : BitVec 4 := 0x5
def Offset.cmd : BitVec 4 := 0x6
def Offset.reshead : BitVec 4 := 0x7
def Offset.res1 : BitVec 4 := 0x8
def Offset.res2 : BitVec 4 := 0x9
def Offset.res3 : BitVec 4 := 0xA
def Offset.res4 : BitVec 4 := 0xB
def Offset.respop : BitVec 4 := 0xC
def Offset.watchset : BitVec 4 := 0xD
def Offset.inq : BitVec 4 := 0xE
def Offset.ident : BitVec 4 := 0xF

end Sys2Proof.Machine
end

