-- ==== Sys2Proof/Machine/State.lean ====
section
/-! DEFINITION. The state of the PM416, the reasons a step can stop, and the state after reset. -/

namespace Sys2Proof.Machine

/-- Why the machine could stop with a fault. The PM416 never stops: a failed entry check is an effect on
its records (R13 to R19) and a refused command is answered with a status (R101). So there is no
constructor, nobody raises one, and nothing is lost by it: safe. -/
inductive Fault where
deriving DecidableEq, Repr

/-- Why a command could be refused by the model. -/
inductive Refusal where
  /-- Raised by an arm of exec for a command that has no meaning yet; no arm does. Safe. -/
  | notModelled (mnemonic : String)
deriving DecidableEq, Repr

/-- Everything the spec gives the machine (INVENTORY.md, State), and the queue of waiting events. -/
structure State where
  /-- The device state and the initialization controller (R144, R145). -/
  device      : DeviceState
  /-- The level of RST_N: true while it is asserted (R144). -/
  rstAsserted : Bool
  /-- The model's own: which device reset the undefined handle records belong to (log 1). -/
  era         : Nat
  /-- REFCLK periods counted since the last tick (R148, log 11). -/
  divider     : Nat
  /-- The configuration lease (R135). -/
  lease       : Lease
  /-- The port the command arbiter granted last (R100). -/
  lastGranted : Port
  /-- The count of check faults, 0 to 255 (R17). -/
  faultCount  : Nat
  /-- The handle table (R1) in its canonical form (Machine/HandleTable.lean). -/
  handles     : List (Nat × HandleRec)
  /-- The sixteen pool records (R21). -/
  pools       : Vector PoolRec 16
  /-- The four port records and inbound queues (R115, R66). -/
  members     : Vector Member 4
  /-- The four port interfaces (R94). -/
  windows     : Vector Window 4
  /-- The four port buses with the words captured for their reads (R149). -/
  buses       : Vector BusPhase 4
  /-- The events that wait, first in, first out. -/
  pending     : List Instr
deriving DecidableEq, Repr

/-- A port record after device reset (Table 7-1, R66). -/
def Member.reset : Member := ⟨.offline, false, ⟨[], []⟩⟩

/-- A port interface after device reset (R144), its reset input deasserted (log 9). -/
def Window.reset : Window where
  arg0          := 0
  arg1          := 0
  arg2          := 0
  queue         := []
  results       := []
  reserved      := 0
  sticky        := .clear
  enables       := 0
  watchFired    := 0
  resetAsserted := false

/-- A port's bus with every strobe high, no read captured, and the address and data pins low (log 10). -/
def BusPhase.idle : BusPhase where
  before      := ⟨false, false, false, 0, 0⟩
  readArrived := false
  writeSpoilt := false
  readData    := 0

/-- The machine right after the assertion of RST_N (R144, log 19). Nothing is listed in the handle table:
every record is undefined until initialization writes it (log 1). -/
def State.reset : State where
  device      := .initializing 0
  rstAsserted := true
  era         := 0
  divider     := 0
  lease       := .vacant
  lastGranted := 0
  faultCount  := 0
  handles     := []
  pools       := Vector.replicate 16 .unconfigured
  members     := Vector.replicate 4 .reset
  windows     := Vector.replicate 4 .reset
  buses       := Vector.replicate 4 .idle
  pending     := []

end Sys2Proof.Machine
end

