-- ==== Sys2Proof/Machine/Ops.lean ====
section
/-! DEFINITION. The operations shared by the commands: reading and writing each record, posting results,
setting causes, charges, the free stack, watches, disposal, teardown, the check-fault path, the reclaim
prologue, and the taking of a command. -/

namespace Sys2Proof.Machine

/-! ### One home for each record -/

def State.pool (s : State) (k : PoolId) : PoolRec := s.pools[k]
def State.member (s : State) (p : Port) : Member := s.members[p]
def State.window (s : State) (p : Port) : Window := s.windows[p]
def State.bus (s : State) (p : Port) : BusPhase := s.buses[p]

/-- Change one pool record. -/
def State.updPool (s : State) (k : PoolId) (f : PoolRec → PoolRec) : State :=
  { s with pools := s.pools.set k.val (f (s.pool k)) k.isLt }

/-- Change one port record. -/
def State.updMember (s : State) (p : Port) (f : Member → Member) : State :=
  { s with members := s.members.set p.val (f (s.member p)) p.isLt }

/-- Change one port interface. -/
def State.updWindow (s : State) (p : Port) (f : Window → Window) : State :=
  { s with windows := s.windows.set p.val (f (s.window p)) p.isLt }

/-- Change one port bus. -/
def State.updBus (s : State) (p : Port) (f : BusPhase → BusPhase) : State :=
  { s with buses := s.buses.set p.val (f (s.bus p)) p.isLt }

/-- Capture the word that a read of a port returns, to be driven until its read enable ends (R149). -/
def State.capture (s : State) (p : Port) (v : Word) : State :=
  s.updBus p fun b => { b with readData := v }

/-- The record of a handle as the pool engine reads it. While the device is INITIALIZING the records that
the controller has not written yet are undefined (R144, R145): a free value. -/
def State.record (s : State) (h : HandleNo) : HandleRec :=
  match s.device with
  | .ready => Table.get h s.handles
  | .initializing next => if next ≤ h then Config.undefinedRecord s.era h else Table.get h s.handles

/-- Write a handle record, with a new entry check over its other fields (R11). -/
def State.writeRecord (s : State) (h : HandleNo) (r : HandleRec) : State :=
  { s with handles := Table.put h { r with verifies := true } s.handles }

/-! ### Handle records -/

/-- A port's hold on a handle (R58). -/
def HandleRec.hold (r : HandleRec) (p : Port) : Nat := r.holds[p]

def HandleRec.setHold (r : HandleRec) (p : Port) (n : Nat) : HandleRec :=
  { r with holds := r.holds.set p.val n p.isLt }

/-- The references of a handle: its four holds and its transit (R2). -/
def HandleRec.refs (r : HandleRec) : Nat :=
  r.hold 0 + r.hold 1 + r.hold 2 + r.hold 3 + r.transit

/-- The pool of a handle, absent when UNASSIGNED (R1). -/
def HandleState.pool? : HandleState → Option PoolId
  | .unassigned => none
  | .free k => some k
  | .inUse k => some k
  | .retired k _ => some k

def HandleState.isInUse : HandleState → Bool
  | .inUse _ => true
  | .unassigned | .free _ | .retired _ _ => false

/-! ### Pool records -/

/-- Depth: the number of occupied slots of the pool's stack (R24). -/
def PoolRec.depth (q : PoolRec) : Nat := q.stack.length

/-- The handle numbers of the pool's range, lowest first. -/
def PoolRec.range (q : PoolRec) : List HandleNo := List.range' q.first q.count

/-- Whether the pool is configured and its range contains the handle (R13). -/
def PoolRec.covers (q : PoolRec) (h : HandleNo) : Bool :=
  decide (q.state ≠ .unconfigured) && decide (q.first ≤ h) && decide (h < q.first + q.count)

/-- The configured pool whose range contains the handle (R13, R27). -/
def State.poolOf (s : State) (h : HandleNo) : Option PoolId :=
  allPools.find? (fun k => (s.pool k).covers h)

/-- A change of a port's hold on handle h between 0 and non-zero: the live charge changes, and the shadow
charge too where a recount runs and h lies below its pointer (R89). No cap at 4096 is put on a charge that
check faults have left high: the model's choice (log 23). -/
def PoolRec.adjustCharge (q : PoolRec) (h : HandleNo) (p : Port) (f : Nat → Nat) : PoolRec :=
  { q with
    charge := q.charge.set p.val (f q.charge[p]) p.isLt
    recount := q.recount.map fun rc =>
      if h < rc.pointer then { rc with shadow := rc.shadow.set p.val (f rc.shadow[p]) p.isLt } else rc }

/-- A hold of port p on handle h of pool k went from 0 to non-zero (R22, R89). -/
def State.raiseCharge (s : State) (k : PoolId) (h : HandleNo) (p : Port) : State :=
  s.updPool k fun q => q.adjustCharge h p (· + 1)

/-- A hold of port p on handle h of pool k went from non-zero to 0 (R22, R89). -/
def State.lowerCharge (s : State) (k : PoolId) (h : HandleNo) (p : Port) : State :=
  s.updPool k fun q => q.adjustCharge h p (· - 1)

/-! ### Ports -/

def State.isOnline (s : State) (p : Port) : Bool := decide ((s.member p).membership = .online)

/-- Whether the membership is RECLAIMING. -/
def Membership.isReclaiming : Membership → Bool
  | .reclaiming _ => true
  | .offline | .online => false

/-- The lease check (R139): the lease is HELD and its holder is the port. -/
def State.holdsLease (s : State) (p : Port) : Bool :=
  match s.lease with
  | .vacant => false
  | .held q _ => decide (q = p)

/-- Set one sticky cause (R108). -/
def Sticky.set (k : Sticky) : Cause → Sticky
  | .watch => { k with watch := true }
  | .pool => { k with pool := true }
  | .lease => { k with lease := true }
  | .peer => { k with peer := true }
  | .fault => { k with fault := true }
  | .overrun => { k with overrun := true }

/-- Whether a sticky cause is set. -/
def Sticky.has (k : Sticky) : Cause → Bool
  | .watch => k.watch
  | .pool => k.pool
  | .lease => k.lease
  | .peer => k.peer
  | .fault => k.fault
  | .overrun => k.overrun

/-- Set a sticky cause at a port (R108). -/
def State.raise (s : State) (p : Port) (c : Cause) : State :=
  s.updWindow p fun w => { w with sticky := w.sticky.set c }

/-- Set a sticky cause at every port of a list that is ONLINE (R17, R124). -/
def State.raiseOnline (s : State) (c : Cause) : List Port → State
  | [] => s
  | p :: rest => (if s.isOnline p then s.raise p c else s).raiseOnline c rest

/-! ### Results -/

/-- Post a result at the tail of a port's result FIFO (R102). -/
def State.post (s : State) (p : Port) (r : Result) : State :=
  s.updWindow p fun w => { w with results := w.results ++ [r] }

/-- Answer the command of a queue entry: tag and code of the entry, and the status (R101, R152). -/
def State.answer (s : State) (p : Port) (e : Entry) (st : Status) (d : Data := {}) : State :=
  s.post p ⟨e.code, e.tag, st, d⟩

/-- Post the deferred ALLOCATE result of a wait-list entry into its port's reserved slot (R52, R105). -/
def State.postDeferred (s : State) (w : WaitEntry) (st : Status) (d : Data := {}) : State :=
  (s.post w.port ⟨Code.allocate, w.tag, st, d⟩).updWindow w.port fun v => { v with reserved := 0 }

/-! ### Inbound queues -/

/-- The number of deliveries of both classes (R66). -/
def Inbound.size (q : Inbound) : Nat := q.urgent.length + q.normal.length

/-- The chosen delivery: the oldest URGENT one, otherwise the oldest NORMAL one (R67). -/
def Inbound.chosen (q : Inbound) : Option (Delivery × DeliveryClass) :=
  match q.urgent with
  | d :: _ => some (d, .urgent)
  | [] =>
    match q.normal with
    | d :: _ => some (d, .normal)
    | [] => none

/-- The queue without its chosen delivery; those behind it in its class move up (R67). -/
def Inbound.tail (q : Inbound) : Inbound :=
  match q.urgent with
  | _ :: rest => { q with urgent := rest }
  | [] => { q with normal := q.normal.tail }

/-- A delivery joins at the tail of its own class (R67). -/
def Inbound.join (q : Inbound) (d : Delivery) : DeliveryClass → Inbound
  | .urgent => { q with urgent := q.urgent ++ [d] }
  | .normal => { q with normal := q.normal ++ [d] }

/-- Whether a delivery names the handle number (R13, step 5). -/
def Delivery.names (d : Delivery) (h : HandleNo) : Bool := tokenHandle d.token == h

/-- The queue without the deliveries that name a handle number, the others in their order (R67). -/
def Inbound.without (q : Inbound) (h : HandleNo) : Inbound :=
  ⟨q.urgent.filter (fun d => !d.names h), q.normal.filter (fun d => !d.names h)⟩

/-- How many deliveries of the queue name a handle number. -/
def Inbound.countOf (q : Inbound) (h : HandleNo) : Nat :=
  q.urgent.countP (·.names h) + q.normal.countP (·.names h)

/-- How many deliveries in the four inbound queues name a handle number (R69). -/
def State.deliveriesOf (s : State) (h : HandleNo) : Nat :=
  (s.member 0).inbound.countOf h + (s.member 1).inbound.countOf h
    + (s.member 2).inbound.countOf h + (s.member 3).inbound.countOf h

/-- Remove every delivery naming a handle number from every inbound queue (R13 step 5, R44 step 3). -/
def State.removeDeliveries (s : State) (h : HandleNo) : State :=
  { s with members := s.members.map fun m => { m with inbound := m.inbound.without h } }

/-- Take the chosen delivery out of a port's queue. -/
def State.popDelivery (s : State) (p : Port) : State :=
  s.updMember p fun m => { m with inbound := m.inbound.tail }

/-- Put a delivery at the tail of its class in a port's queue (R68). -/
def State.addDelivery (s : State) (p : Port) (d : Delivery) (c : DeliveryClass) : State :=
  s.updMember p fun m => { m with inbound := m.inbound.join d c }

/-! ### Watches, drain completion and teardown -/

/-- A watch fires: it is disarmed, WATCH is set at its port and the pool joins the port's watch-fired
set (R33, R35). -/
def State.fireWatch (s : State) (k : PoolId) (p : Port) : State :=
  ((s.updPool k fun q => { q with watches := q.watches.set p.val none p.isLt }).raise p .watch).updWindow p
    fun w => { w with watchFired := w.watchFired ||| (1#16 <<< k.val) }

/-- Fire the port's watch on the pool if it is armed with a threshold the depth has reached (R33). -/
def State.testWatch (s : State) (k : PoolId) (p : Port) : State :=
  match (s.pool k).watches[p] with
  | some threshold => if threshold ≤ (s.pool k).depth then s.fireWatch k p else s
  | none => s

/-- Test every armed watch of the pool, in each of the four ports (R30 step 1). -/
def State.testWatches (s : State) (k : PoolId) : State :=
  (((s.testWatch k 0).testWatch k 1).testWatch k 2).testWatch k 3

/-- Write every handle of a list UNASSIGNED, its generation as it stands (R40 step 1). -/
def State.unassignAll (s : State) : List HandleNo → State
  | [] => s
  | h :: rest => (s.writeRecord h (.blank .unassigned (s.record h).gen)).unassignAll rest

/-- Teardown (R40): the range becomes UNASSIGNED, the record becomes that of an UNCONFIGURED pool, and
POOL is set at the closer if one is recorded. -/
def State.teardown (s : State) (k : PoolId) : State :=
  let s1 := (s.unassignAll (s.pool k).range).updPool k fun _ => .unconfigured
  match (s.pool k).closer with
  | some c => s1.raise c .pool
  | none => s1

/-- The condition of drain completion: DRAINING with depth plus retired equal to count (R39). -/
def PoolRec.drained (q : PoolRec) : Bool :=
  decide (q.state = .draining) && decide (q.depth + q.retired = q.count)

/-- Test drain completion, and tear the pool down if it is complete (R39). -/
def State.drainTest (s : State) (k : PoolId) : State :=
  if (s.pool k).drained then s.teardown k else s

/-! ### Disposal -/

/-- Push a handle onto its pool's free stack, with the watch tests and the drain test (R30). -/
def State.push (s : State) (k : PoolId) (h : HandleNo) : State :=
  ((s.updPool k fun q => { q with stack := h :: q.stack }).testWatches k).drainTest k

/-- Give a handle to the waiter at the head of the pool's wait list under the generation g (R9 step 2,
R53): hold 1, charge plus 1, the entry leaves, and the deferred result is posted. -/
def State.grantTo (s : State) (k : PoolId) (h : HandleNo) (g : BitVec 4) (w : WaitEntry)
    (rest : List WaitEntry) : State :=
  let s1 := s.writeRecord h ((HandleRec.blank (.inUse k) g).setHold w.port 1)
  let s2 := (s1.raiseCharge k h w.port).updPool k fun q => { q with waitList := rest }
  s2.postDeferred w .ok { res1 := mkToken g h }

/-- Disposal (R9): the generation advances, and the handle goes to the oldest waiter of its pool or onto
the pool's free stack. -/
def State.dispose (s : State) (h : HandleNo) : State × Disposition :=
  let g := (s.record h).gen + 1
  match (s.record h).state.pool? with
  | none => (s, .notDisposed)
  | some k =>
    match (s.pool k).waitList with
    | w :: rest => (s.grantTo k h g w rest, .granted w.port)
    | [] => ((s.writeRecord h (.blank (.free k) g)).push k h, .free)

/-- Dispose of the handle if its references have reached 0 (R8). -/
def State.disposeIfDone (s : State) (h : HandleNo) : State × Disposition :=
  if (s.record h).refs = 0 then s.dispose h else (s, .notDisposed)

/-! ### The check-fault path -/

/-- The fault count rises by 1 and stays at 255 (R17). -/
def State.countFault (s : State) : State :=
  { s with faultCount := min 255 (s.faultCount + 1) }

/-- The further effects on the pool of a check fault on a record treated as IN_USE (R14). -/
def PoolRec.lostInUse (q : PoolRec) : PoolRec :=
  { q with
    retired := q.retired + 1
    recountNeeded := true
    recount := q.recount.map fun rc => { rc with disturbed := true } }

/-- The check-fault path for a handle (R13 to R16), apart from the FAULT cause, which depends on the event
(R17). `popped` says that ALLOCATE has just popped the handle. The path is chosen from the pool records
and the free stacks; the recorded state only tells RETIRED from IN_USE. -/
def State.checkFault (s : State) (h : HandleNo) (popped : Bool) : State :=
  let r := s.record h
  match s.poolOf h with
  | none => (s.writeRecord h (.blank .unassigned r.gen)).countFault
  | some k =>
    let s1 := ((s.writeRecord h (.blank (.retired k .check) (r.gen + 1))).removeDeliveries h).countFault
    if popped then
      s1.updPool k fun q => { q with retired := q.retired + 1 }
    else if (s.pool k).stack.contains h then
      s1.updPool k fun q => { q with retired := q.retired + 1, stack := q.stack.erase h }
    else
      match r.state with
      | .retired _ _ => s1
      | .unassigned | .free _ | .inUse _ => (s1.updPool k PoolRec.lostInUse).drainTest k

/-- A command's read met a check fault: the path runs, FAULT is set at the issuing port, and the command
is answered CHECK_FAULT with the handle number in RES1 (R17, R18). -/
def State.answerFault (s : State) (p : Port) (e : Entry) (h : HandleNo) : State :=
  ((s.checkFault h false).raise p .fault).answer p e .checkFault { res1 := word h }

/-- A check fault found by a step or a prologue: the path runs and FAULT is set at every ONLINE port
(R17, R19). -/
def State.sweepFault (s : State) (h : HandleNo) : State :=
  (s.checkFault h false).raiseOnline .fault allPorts

/-! ### Drops and the reclaim prologue -/

/-- Lower a handle's transit by 1, write its record, and dispose of it if its references have reached 0
(R70). -/
def State.lowerTransit (s : State) (h : HandleNo) : State × Disposition :=
  let r := s.record h
  (s.writeRecord h { r with transit := r.transit - 1 }).disposeIfDone h

/-- Drop the deliveries of a departing port's queue one at a time in the order of R67 (R123), at most
`fuel` of them. Answers the state and the number of deliveries dropped; a delivery removed by the
check-fault path is not counted. -/
def State.dropAll (p : Port) : Nat → State → State × Nat
  | 0, s => (s, 0)
  | fuel + 1, s =>
    match (s.member p).inbound.chosen with
    | none => (s, 0)
    | some (d, _) =>
      let h := tokenHandle d.token
      let s1 := s.popDelivery p
      if (s.record h).verifies then
        let next := State.dropAll p fuel (s1.lowerTransit h).1
        (next.1, next.2 + 1)
      else
        State.dropAll p fuel (s1.sweepFault h)

/-- What the prologue does to a pool record (R122 steps 2, 3 and 5): the departing port's wait-list entry
leaves, its watch is disarmed, and the closer and the recount requester are cleared where they name it. -/
def PoolRec.forget (q : PoolRec) (p : Port) : PoolRec :=
  { q with
    waitList := q.waitList.filter fun w => decide (w.port ≠ p)
    watches := q.watches.set p.val none p.isLt
    closer := if q.closer = some p then none else q.closer
    recount := q.recount.map fun rc =>
      { rc with requester := if rc.requester = some p then none else rc.requester } }

/-- The pool and the wait-list entry of a port's waiting allocation (R50). -/
def State.waitEntryOf (s : State) (p : Port) : Option (PoolId × WaitEntry) :=
  allPools.findSome? fun k =>
    ((s.pool k).waitList.find? fun w => decide (w.port = p)).map fun w => (k, w)

/-- What the prologue reports (R130, R133). -/
structure PrologueReport where
  dropped : Nat
  waited  : Bool
  leased  : Bool
deriving DecidableEq, Repr

/-- Steps 1 to 5 of the reclaim prologue (R122), and the sweep pointer at handle 0 of step 8 (log 17). -/
def State.departFrom (s : State) (p : Port) : State :=
  let s1 := s.updMember p fun m => { m with membership := .reclaiming 0 }
  let s2 := s1.updWindow p fun w => { w with reserved := 0 }
  { s2 with
    pools := s2.pools.map fun q => q.forget p
    lease := if s2.holdsLease p then .vacant else s2.lease }

/-- The reclaim prologue of a departing port (R122). -/
def State.prologue (s : State) (p : Port) : State × PrologueReport :=
  let s1 := s.departFrom p
  let dropped := State.dropAll p (s.member p).inbound.size s1
  (dropped.1.raiseOnline .peer (allPorts.filter fun q => decide (q ≠ p)),
    { dropped := dropped.2, waited := (s.waitEntryOf p).isSome, leased := s.holdsLease p })

/-- What a port reset does to a window at the window side (R112), and EVICT to its target's (R114). -/
def Window.cleared (w : Window) : Window :=
  { w with
    arg0 := 0, arg1 := 0, arg2 := 0
    queue := []
    results := []
    sticky := .clear
    enables := 0
    watchFired := 0 }

/-! ### The command arbiter and the taking of a command -/

/-- Whether the port's oldest queued command is eligible (R99). -/
def State.eligible (s : State) (p : Port) : Bool :=
  !(s.window p).queue.isEmpty
    && decide ((s.window p).results.length + (s.window p).reserved < 8)
    && !(s.member p).membership.isReclaiming

/-- The port the arbiter grants: the first eligible one from the port above the one granted last (R100). -/
def State.arbiterChoice (s : State) : Option Port :=
  [s.lastGranted + 1, s.lastGranted + 2, s.lastGranted + 3, s.lastGranted].find? s.eligible

/-- The oldest command the arbiter offers the pool engine from a port, if it grants that port and the
device is READY (R1, R100). -/
def State.offered (s : State) (p : Port) : Option Entry :=
  if s.device = .ready ∧ s.arbiterChoice = some p then (s.window p).queue.head? else none

/-- The pool engine takes the oldest entry out of the port's queue, and the arbiter records the grant
(R100, R101). -/
def State.taken (s : State) (p : Port) : State :=
  { s.updWindow p fun w => { w with queue := w.queue.tail } with lastGranted := p }

/-- The taking of a command that passes the membership check from any state: JOIN (R101, R118). -/
def State.takeAny (s : State) (p : Port) (accepts : BitVec 6 → Bool) (body : Entry → State → State) : State :=
  match s.offered p with
  | none => s
  | some e => if accepts e.code then body e (s.taken p) else s

/-- The taking of every other command: from an OFFLINE port it is answered NOT_JOINED (R101). Where the
arbiter does not offer such a command from this port, the event does not come about (log 3). -/
def State.takeCommand (s : State) (p : Port) (accepts : BitVec 6 → Bool)
    (body : Entry → State → State) : State :=
  s.takeAny p accepts fun e t =>
    if (t.member p).membership = .offline then t.answer p e .notJoined else body e t

/-! ### Token validation -/

/-- The outcomes of token validation (R6). -/
inductive TokenCheck where
  | fault
  | retired
  | stale
  | valid (pool : PoolId)
deriving DecidableEq, Repr

/-- The validation procedure of R6. -/
def State.validate (s : State) (t : Word) : TokenCheck :=
  let r := s.record (tokenHandle t)
  if !r.verifies then .fault
  else
    match r.state with
    | .retired _ _ => if tokenGen t = r.gen - 1 then .retired else .stale
    | .inUse k => if tokenGen t = r.gen then .valid k else .stale
    | .unassigned => .stale
    | .free _ => .stale

/-- Validate the token in ARG0 for RELEASE, RETAIN, DESCRIBE and SEND, then check that the issuing port
holds the handle (R6, NOT_HOLDER). -/
def State.withToken (s : State) (p : Port) (e : Entry) (body : HandleNo → PoolId → State) : State :=
  let h := tokenHandle e.arg0
  match s.validate e.arg0 with
  | .fault => s.answerFault p e h
  | .retired => s.answer p e .retired
  | .stale => s.answer p e .stale
  | .valid k => if (s.record h).hold p = 0 then s.answer p e .notHolder else body h k

end Sys2Proof.Machine
end

