-- ==== Sys2Proof/Machine/Flags.lean ====
section
/-! DEFINITION. Status locations, attention, and the words of results (Chapter 10): every packed layout, and
what a read of each window location returns. -/

namespace Sys2Proof.Machine

/-! ### Codes (Table 10-8, Table 10-10) -/

/-- The status codes (Table 10-8). -/
def Status.code : Status → BitVec 6
  | .ok => 0 | .empty => 1 | .poolEmpty => 2 | .quota => 3
  | .noPool => 4 | .poolDraining => 5 | .stale => 6 | .retired => 7
  | .notHolder => 8 | .holdLimit => 9 | .transitLimit => 10 | .badDest => 11
  | .destOffline => 12 | .destFull => 13 | .waitBusy => 14 | .cancelled => 15
  | .nothingWaiting => 16 | .noLease => 17 | .leaseBusy => 18 | .notLeaseHolder => 19
  | .badArg => 20 | .rangeConflict => 21 | .poolBusy => 22 | .recountBusy => 23
  | .checkFault => 24 | .dropped => 25 | .notJoined => 26 | .unknownCommand => 27
  | .alreadyRetired => 28 | .notRetired => 29 | .notOnline => 30 | .alreadyJoined => 31

/-- Handle state codes. -/
def HandleState.code : HandleState → BitVec 2
  | .unassigned => 0
  | .free _ => 1
  | .inUse _ => 2
  | .retired _ _ => 3

/-- Retire reason codes; 0 where absent. -/
def HandleState.reasonCode : HandleState → BitVec 2
  | .unassigned | .free _ | .inUse _ => 0
  | .retired _ .admin => 1
  | .retired _ .check => 2

/-- Pool state codes. -/
def PoolState.code : PoolState → BitVec 2
  | .unconfigured => 0
  | .active => 1
  | .draining => 2

/-- Port state codes. -/
def Membership.code : Membership → BitVec 2
  | .offline => 0
  | .online => 1
  | .reclaiming _ => 2

/-- Device state codes. -/
def DeviceState.code : DeviceState → BitVec 1
  | .initializing _ => 0
  | .ready => 1

/-- Kind codes. -/
def Kind.code : Kind → BitVec 1
  | .sent => 0
  | .returned => 1

/-- Class codes. -/
def DeliveryClass.code : DeliveryClass → BitVec 1
  | .normal => 0
  | .urgent => 1

/-- Disposition codes. -/
def Disposition.code : Disposition → Word
  | .notDisposed => 0
  | .free => 1
  | .granted _ => 2

/-- The waiter's port number when GRANTED, 0 otherwise. -/
def Disposition.waiter : Disposition → Word
  | .notDisposed => 0
  | .free => 0
  | .granted w => word w.val

def watchArmed : Word := 1
def watchFiredCode : Word := 2
def closeDraining : Word := 1
def closeClosed : Word := 2

/-- A flag as a whole data word: 1 when set. -/
def flagWord (b : Bool) : Word := if b then 1 else 0

/-! ### Packed words (Table 10-6, Table 10-11) -/

/-- The result header: status in bits 15..10, tag in 9..6, code in 5..0 (Table 10-6). -/
def Result.header (r : Result) : Word := r.status.code ++ r.tag ++ r.code

/-- The INSPECT record word. -/
def HandleRec.recordWord (r : HandleRec) : Word :=
  r.gen ++ (0#5 ++ (r.state.reasonCode ++ (BitVec.ofNat 3 r.transit ++ r.state.code)))

/-- The INSPECT holds word. -/
def HandleRec.holdsWord (r : HandleRec) : Word :=
  0#1 ++ (BitVec.ofNat 3 (r.hold 3) ++ (0#1 ++ (BitVec.ofNat 3 (r.hold 2)
    ++ (0#1 ++ (BitVec.ofNat 3 (r.hold 1) ++ (0#1 ++ BitVec.ofNat 3 (r.hold 0)))))))

/-- The delivery word of TAKE and REFUSE, with the hold it reports. -/
def deliveryWord (d : Delivery) (c : DeliveryClass) (hold : Nat) : Word :=
  0#9 ++ (BitVec.ofNat 3 hold ++ (c.code ++ (d.kind.code ++ BitVec.ofNat 2 d.sender.val)))

/-- The POOLSTAT pool word. -/
def PoolRec.poolWord (q : PoolRec) : Word :=
  0#9 ++ (BitVec.ofNat 3 q.waitList.length ++ (BitVec.ofBool q.recount.isSome
    ++ (BitVec.ofBool q.recountNeeded ++ q.state.code)))

/-- The SURVEY ports word. -/
def State.portsWord (s : State) : Word :=
  0#4 ++ (BitVec.ofBool (s.member 3).evicted ++ (BitVec.ofBool (s.member 2).evicted
    ++ (BitVec.ofBool (s.member 1).evicted ++ (BitVec.ofBool (s.member 0).evicted
    ++ ((s.member 3).membership.code ++ ((s.member 2).membership.code
    ++ ((s.member 1).membership.code ++ (s.member 0).membership.code)))))))

/-- Lease state: 1 when HELD. -/
def Lease.code : Lease → BitVec 1
  | .vacant => 0
  | .held _ _ => 1

/-- The holder's port number when HELD, 0 when VACANT. -/
def Lease.holderWord : Lease → Word
  | .vacant => 0
  | .held p _ => word p.val

/-- The remaining milliseconds when HELD, 0 when VACANT. -/
def Lease.remainingWord : Lease → Word
  | .vacant => 0
  | .held _ r => word r

/-- The SURVEY device and lease word. -/
def State.deviceLeaseWord (s : State) : Word :=
  0#6 ++ (s.lease.holderWord.extractLsb' 0 2 ++ (0#3 ++ (s.lease.code ++ (0#3 ++ s.device.code))))

/-! ### Attention (R106, R107, R109, Table 10-3) -/

/-- The eight causes of a port as ATTN's bits 7..0: the level causes RESULT and INBOUND follow the result
FIFO and the inbound queue (R107). -/
def State.causes (s : State) (p : Port) : BitVec 8 :=
  let k := (s.window p).sticky
  BitVec.ofBool k.overrun ++ (BitVec.ofBool k.fault ++ (BitVec.ofBool k.peer ++ (BitVec.ofBool k.lease
    ++ (BitVec.ofBool k.pool ++ (BitVec.ofBool k.watch
    ++ (BitVec.ofBool (decide (0 < (s.member p).inbound.size))
    ++ BitVec.ofBool (!(s.window p).results.isEmpty)))))))

/-- Whether ATTNx_N is asserted: the AND of ATTN and ATTNEN is not zero (R109, R150). -/
def State.attention (s : State) (p : Port) : Bool :=
  (s.causes p &&& (s.window p).enables) != 0

/-- Clear each sticky cause written as 1; bits 1..0 and 15..8 are ignored (R108, R150). -/
def Sticky.clearedBy (k : Sticky) (w : Word) : Sticky where
  watch   := k.watch && !w.getLsbD 2
  pool    := k.pool && !w.getLsbD 3
  lease   := k.lease && !w.getLsbD 4
  peer    := k.peer && !w.getLsbD 5
  fault   := k.fault && !w.getLsbD 6
  overrun := k.overrun && !w.getLsbD 7

/-! ### What a read returns (Table 6-1) -/

/-- PSTAT (R110, Table 10-2). -/
def State.pstat (s : State) (p : Port) : Word :=
  0#3 ++ (BitVec.ofBool (s.waitEntryOf p).isSome ++ (BitVec.ofNat 1 (s.window p).reserved
    ++ (BitVec.ofNat 4 (s.window p).results.length ++ (BitVec.ofNat 3 (s.window p).queue.length
    ++ (BitVec.ofBool (s.member p).evicted ++ (s.device.code ++ (s.member p).membership.code))))))

/-- INQ (R111, Table 10-4). -/
def Inbound.inq (q : Inbound) : Word :=
  0#2 ++ (BitVec.ofNat 6 q.normal.length ++ (0#2 ++ BitVec.ofNat 6 q.urgent.length))

/-- IDENT: 4160h plus the port number (R111). -/
def ident (p : Port) : Word := 0x4160 + word p.val

/-- A data word of the oldest result, 0000h when the FIFO is empty (R103). -/
def Window.headData (w : Window) (f : Data → Word) : Word :=
  match w.results with
  | r :: _ => f r.data
  | [] => 0

/-- RESHEAD: the header of the oldest result, FFFFh when the FIFO is empty (R103). -/
def Window.reshead (w : Window) : Word :=
  match w.results with
  | r :: _ => r.header
  | [] => 0xFFFF

/-- Whether the port ignores its window: while PxRST_N or RST_N is asserted (R94, R144). -/
def State.ignoresWindow (s : State) (p : Port) : Bool :=
  s.rstAsserted || (s.window p).resetAsserted

/-- The word a read of a window location returns (Table 6-1); 0000h while the window is ignored. -/
def State.windowRead (s : State) (p : Port) (off : BitVec 4) : Word :=
  if s.ignoresWindow p then 0
  else if off = Offset.pstat then s.pstat p
  else if off = Offset.attn then 0#8 ++ s.causes p
  else if off = Offset.attnen then 0#8 ++ (s.window p).enables
  else if off = Offset.arg0 then (s.window p).arg0
  else if off = Offset.arg1 then (s.window p).arg1
  else if off = Offset.arg2 then (s.window p).arg2
  else if off = Offset.cmd then 0
  else if off = Offset.reshead then (s.window p).reshead
  else if off = Offset.res1 then (s.window p).headData Data.res1
  else if off = Offset.res2 then (s.window p).headData Data.res2
  else if off = Offset.res3 then (s.window p).headData Data.res3
  else if off = Offset.res4 then (s.window p).headData Data.res4
  else if off = Offset.respop then word (s.window p).results.length
  else if off = Offset.watchset then (s.window p).watchFired
  else if off = Offset.inq then (s.member p).inbound.inq
  else ident p

end Sys2Proof.Machine
end

