-- ==== Sys2Proof/Machine/Allocation.lean ====
section
/-! DEFINITION. Allocation (Chapter 3): ALLOCATE with its repeated pops and waiting allocations, CANCEL, and
GRANT. -/

namespace Sys2Proof.Machine

/-- Where the pops of an ALLOCATE end: the handle of the pop that verified if there was one, the number of
faulty pops, and the state (R47, R48). -/
structure PopResult where
  handle : Option HandleNo
  faulty : Nat
  state  : State

/-- Pop the pool's free stack, given as the list of handles still on it, until a record verifies or the
stack is empty. A faulty pop runs the check-fault path and sets FAULT at the issuing port (R47, R48). -/
def popUntilGood (k : PoolId) (p : Port) : List HandleNo → Nat → State → PopResult
  | [], n, s => ⟨none, n, s⟩
  | h :: rest, n, s =>
    let s1 := s.updPool k fun q => { q with stack := rest }
    if (s1.record h).verifies then ⟨some h, n, s1⟩
    else popUntilGood k p rest (n + 1) ((s1.checkFault h true).raise p .fault)

/-- The handle of a good pop becomes IN_USE with one hold of the issuing port (R47, R49). -/
def allocateHandle (p : Port) (k : PoolId) (h : HandleNo) (faulty : Nat) (e : Entry) (s : State) : State :=
  let g := (s.record h).gen
  let s1 := (s.writeRecord h ((HandleRec.blank (.inUse k) g).setHold p 1)).raiseCharge k h p
  s1.answer p e .ok { res1 := mkToken g h, res2 := word faulty, res3 := word (s1.pool k).depth }

/-- A waiting allocation begins: an entry joins the wait list and the slot is reserved (R51). -/
def beginWaiting (p : Port) (k : PoolId) (e : Entry) (s : State) : State :=
  (s.updPool k fun q => { q with waitList := q.waitList ++ [⟨p, e.tag⟩] }).updWindow p
    fun w => { w with reserved := 1 }

/-- The decision of R46 step 6 on an empty stack. -/
def allocateEmpty (p : Port) (k : PoolId) (faulty : Nat) (e : Entry) (s : State) : State :=
  if e.flagA then
    match s.waitEntryOf p with
    | some (at_, _) => s.answer p e .waitBusy { res1 := word at_.val, res2 := word faulty }
    | none => beginWaiting p k e s
  else s.answer p e .poolEmpty { res2 := word faulty }

/-- The checks of ALLOCATE in the order of R46, then the pops of R47 and R48. -/
def allocateBody (p : Port) (e : Entry) (s : State) : State :=
  match poolArg e.arg0 with
  | none => s.answer p e .badArg
  | some k =>
    let q := s.pool k
    match q.state with
    | .unconfigured => s.answer p e .noPool
    | .draining => s.answer p e .poolDraining
    | .active =>
      if q.quota[p] ≤ q.charge[p] then
        s.answer p e .quota { res1 := word q.charge[p], res2 := word q.quota[p] }
      else
        let popped := popUntilGood k p q.stack 0 s
        match popped.handle with
        | some h => allocateHandle p k h popped.faulty e popped.state
        | none => allocateEmpty p k popped.faulty e popped.state

/-- ALLOCATE (R46 to R51). -/
def execAllocate (p : Port) (s : State) : Host.Outcome State Fault Refusal :=
  .next (s.takeCommand p (· == Code.allocate) (allocateBody p))

/-- CANCEL once taken (R55). -/
def cancelBody (p : Port) (e : Entry) (s : State) : State :=
  match s.waitEntryOf p with
  | none => s.answer p e .nothingWaiting
  | some (k, w) =>
    let s1 := s.updPool k fun q => { q with waitList := q.waitList.filter fun v => decide (v.port ≠ p) }
    (s1.postDeferred w .cancelled).answer p e .ok { res1 := word k.val, res2 := w.tag.setWidth 16 }

/-- CANCEL (R55). -/
def execCancel (p : Port) (s : State) : Host.Outcome State Fault Refusal :=
  .next (s.takeCommand p (· == Code.cancel) (cancelBody p))

/-- GRANT (R53): the disposal of a handle whose references are gone, to the oldest waiter of its pool. In
the states between events no handle awaits its disposal, so a GRANT of its own then changes nothing
(log 6). -/
def execGrant (h : Fin 4096) (s : State) : Host.Outcome State Fault Refusal :=
  let r := s.record h.val
  .next <|
    match s.device, r.state with
    | .ready, .inUse k =>
      if r.verifies ∧ r.refs = 0 ∧ (s.pool k).waitList ≠ [] then (s.dispose h.val).1 else s
    | .ready, .unassigned | .ready, .free _ | .ready, .retired _ _ | .initializing _, _ => s

end Sys2Proof.Machine
end

