-- ==== Sys2Proof/Machine/Holding.lean ====
section
/-! DEFINITION. Holding (Chapter 3) and INSPECT (Chapter 1): RELEASE, RETAIN, DESCRIBE, INSPECT. -/

namespace Sys2Proof.Machine

/-- A RELEASE that passes its checks (R60). The handle's pool is k. -/
def releaseHandle (p : Port) (e : Entry) (s : State) (h : HandleNo) (k : PoolId) : State :=
  let r := s.record h
  let left := r.hold p - 1
  let s1 := (if left = 0 then s.lowerCharge k h p else s).writeRecord h (r.setHold p left)
  let d := s1.disposeIfDone h
  d.1.answer p e .ok
    { res1 := word left, res2 := flagWord (decide (d.2 ≠ .notDisposed))
      res3 := d.2.code, res4 := d.2.waiter }

/-- RELEASE once taken from an ONLINE port (R59, R60). -/
def releaseBody (p : Port) (e : Entry) (s : State) : State :=
  s.withToken p e fun h k => releaseHandle p e s h k

/-- RELEASE (R59, R60). -/
def execRelease (p : Port) (s : State) : Host.Outcome State Fault Refusal :=
  .next (s.takeCommand p (· == Code.release) (releaseBody p))

/-- RETAIN once taken from an ONLINE port (R62). -/
def retainBody (p : Port) (e : Entry) (s : State) : State :=
  s.withToken p e fun h _ =>
    let r := s.record h
    if r.hold p = 7 then s.answer p e .holdLimit
    else (s.writeRecord h (r.setHold p (r.hold p + 1))).answer p e .ok { res1 := word (r.hold p + 1) }

/-- RETAIN (R62). -/
def execRetain (p : Port) (s : State) : Host.Outcome State Fault Refusal :=
  .next (s.takeCommand p (· == Code.retain) (retainBody p))

/-- DESCRIBE once taken from an ONLINE port (R63). -/
def describeBody (p : Port) (e : Entry) (s : State) : State :=
  s.withToken p e fun h _ =>
    let r := s.record h
    (s.writeRecord h { r with length := e.arg1, tag := e.arg2 }).answer p e .ok
      { res1 := r.length, res2 := r.tag }

/-- DESCRIBE (R63). -/
def execDescribe (p : Port) (s : State) : Host.Outcome State Fault Refusal :=
  .next (s.takeCommand p (· == Code.describe) (describeBody p))

/-- INSPECT once taken from an ONLINE port (R20). -/
def inspectBody (p : Port) (e : Entry) (s : State) : State :=
  match handleArg e.arg0 with
  | none => s.answer p e .badArg
  | some h =>
    let r := s.record h
    if !r.verifies then s.answerFault p e h
    else s.answer p e .ok { res1 := r.recordWord, res2 := r.holdsWord, res3 := r.length, res4 := r.tag }

/-- INSPECT (R20). -/
def execInspect (p : Port) (s : State) : Host.Outcome State Fault Refusal :=
  .next (s.takeCommand p (· == Code.inspect) (inspectBody p))

end Sys2Proof.Machine
end

