-- ==== Sys2Proof/Machine/LeaseUnit.lean ====
section
/-! DEFINITION. The configuration lease (Chapter 8): LEASE, UNLEASE, the millisecond tick and the expiry. -/

namespace Sys2Proof.Machine

/-- LEASE once taken from an ONLINE port (R137). -/
def leaseBody (p : Port) (e : Entry) (s : State) : State :=
  let d := e.arg0.toNat
  if d = 0 ∨ 255 < d then s.answer p e .badArg
  else
    match s.lease with
    | .vacant => ({ s with lease := .held p d }).answer p e .ok { res2 := e.arg0 }
    | .held q r =>
      if q = p then
        ({ s with lease := .held p d }).answer p e .ok { res1 := 1, res2 := e.arg0, res3 := word r }
      else s.answer p e .leaseBusy { res1 := word q.val, res2 := word r }

/-- LEASE (R137). -/
def execLease (p : Port) (s : State) : Host.Outcome State Fault Refusal :=
  .next (s.takeCommand p (· == Code.lease) (leaseBody p))

/-- UNLEASE once taken from an ONLINE port (R138). -/
def unleaseBody (p : Port) (e : Entry) (s : State) : State :=
  match s.lease with
  | .vacant => s.answer p e .notLeaseHolder
  | .held q r =>
    if q = p then ({ s with lease := .vacant }).answer p e .ok { res1 := word r }
    else s.answer p e .notLeaseHolder { res1 := 1, res2 := word q.val }

/-- UNLEASE (R138). -/
def execUnlease (p : Port) (s : State) : Host.Outcome State Fault Refusal :=
  .next (s.takeCommand p (· == Code.unlease) (unleaseBody p))

/-- The effect of a tick on the lease (R136): remaining falls by 1, and the tick that would bring it to 0
is the expiry, which vacates the lease and sets LEASE at the former holder. -/
def State.tickLease (s : State) : State :=
  match s.lease with
  | .vacant => s
  | .held p r =>
    if r ≤ 1 then ({ s with lease := .vacant }).raise p .lease
    else { s with lease := .held p (r - 1) }

/-- MILLISECOND_TICK (R136, R148): delivered at the end of a division of REFCLK, so the divider stands at
its start; not delivered while RST_N is asserted (log 21). -/
def execMillisecondTick (s : State) : Host.Outcome State Fault Refusal :=
  .next (if s.rstAsserted then s else ({ s with divider := 0 }).tickLease)

/-- Whether the next tick expires the lease (R136). -/
def Lease.expiring : Lease → Bool
  | .vacant => false
  | .held _ r => decide (r = 1)

/-- LEASE_EXPIRY (R136): the tick that finds a HELD lease with remaining 1 (log 5). -/
def execLeaseExpiry (s : State) : Host.Outcome State Fault Refusal :=
  .next (if s.rstAsserted || !s.lease.expiring then s else ({ s with divider := 0 }).tickLease)

end Sys2Proof.Machine
end

