-- ==== Sys2Proof/Machine/Membership.lean ====
section
/-! DEFINITION. Membership and reclaim (Chapter 7): JOIN, LEAVE, EVICT, SURVEY, UNKNOWN_COMMAND, the
membership side of a port reset, the reclaim step and the completion of a sweep. -/

namespace Sys2Proof.Machine

/-- JOIN once taken (R118). It is not taken while the port is RECLAIMING (R99), so the port is OFFLINE
or ONLINE. -/
def joinBody (p : Port) (e : Entry) (s : State) : State :=
  if (s.member p).membership = .offline then
    (s.updMember p fun m => { m with membership := .online, evicted := false }).answer p e .ok
      { res1 := word p.val, res2 := flagWord (s.member p).evicted }
  else s.answer p e .alreadyJoined

/-- JOIN (R118). -/
def execJoin (p : Port) (s : State) : Host.Outcome State Fault Refusal :=
  .next (s.takeAny p (· == Code.join) (joinBody p))

/-- LEAVE of an ONLINE port (R114, R130): the entries behind it and the FIFO go, the prologue is performed,
and the LEAVE result is posted as the one result. -/
def leaveBody (p : Port) (e : Entry) (s : State) : State :=
  let gone := (s.updWindow p fun w => { w with queue := [], results := [] }).prologue p
  gone.1.answer p e .ok
    { res1 := word gone.2.dropped, res2 := flagWord gone.2.waited, res3 := flagWord gone.2.leased }

/-- LEAVE (R130). -/
def execLeave (p : Port) (s : State) : Host.Outcome State Fault Refusal :=
  .next (s.takeCommand p (· == Code.leave) (leaveBody p))

/-- EVICT of a target that passes the checks (R133). -/
def evictTarget (p t : Port) (e : Entry) (s : State) : State :=
  let s1 := s.updWindow t Window.cleared
  let s2 := s1.updMember t fun m => { m with evicted := true }
  let gone := s2.prologue t
  gone.1.answer p e .ok { res1 := word t.val, res2 := word gone.2.dropped }

/-- The checks of EVICT, in the order of R132. -/
def evictBody (p : Port) (e : Entry) (s : State) : State :=
  match portArg e.arg0 with
  | none => s.answer p e .badArg
  | some t =>
    if !s.holdsLease p then s.answer p e .noLease
    else if t = p then s.answer p e .badDest
    else if !s.isOnline t then
      s.answer p e .notOnline { res1 := (s.member t).membership.code.setWidth 16 }
    else evictTarget p t e s

/-- EVICT (R132, R133). -/
def execEvict (p : Port) (s : State) : Host.Outcome State Fault Refusal :=
  .next (s.takeCommand p (· == Code.evict) (evictBody p))

/-- SURVEY once taken from an ONLINE port (R134). -/
def surveyBody (p : Port) (e : Entry) (s : State) : State :=
  s.answer p e .ok
    { res1 := s.portsWord, res2 := s.deviceLeaseWord
      res3 := s.lease.remainingWord, res4 := word s.faultCount }

/-- SURVEY (R134). -/
def execSurvey (p : Port) (s : State) : Host.Outcome State Fault Refusal :=
  .next (s.takeCommand p (· == Code.survey) (surveyBody p))

/-- A command whose code names no command, from a port that is not OFFLINE (R101 step 2, R151). -/
def unknownBody (p : Port) (e : Entry) (s : State) : State :=
  s.answer p e .unknownCommand

/-- UNKNOWN_COMMAND (R101, R151). -/
def execUnknownCommand (p : Port) (s : State) : Host.Outcome State Fault Refusal :=
  .next (s.takeCommand p (fun c => !Code.named c) (unknownBody p))

/-- The membership side of a port reset: an ONLINE port becomes RECLAIMING by the prologue, and the arrival
changes nothing at an OFFLINE or RECLAIMING port (R120). One that the queue names without a new assertion, which
R121 does not let arrive, acts in the same way: the model's choice (log 21). -/
def execPortResetMembership (p : Port) (s : State) : Host.Outcome State Fault Refusal :=
  .next (if s.isOnline p then (s.prologue p).1 else s)

/-- What a reclaim step does to one handle for the departing port (R125). -/
def State.sweepOne (s : State) (p : Port) (h : HandleNo) : State :=
  let r := s.record h
  if !r.verifies then s.sweepFault h
  else
    match r.state with
    | .inUse k =>
      if r.hold p = 0 then s
      else (((s.lowerCharge k h p).writeRecord h (r.setHold p 0)).disposeIfDone h).1
    | .unassigned | .free _ | .retired _ _ => s

/-- A reclaim step's work on its handles, in increasing number (R125). -/
def State.sweepAll (s : State) (p : Port) : List HandleNo → State
  | [] => s
  | h :: rest => (s.sweepOne p h).sweepAll p rest

/-- One reclaim step of a port whose sweep pointer stands at `ptr`: sixteen handles, then the pointer
advances, and at handle 4095 the sweep completes and the port becomes OFFLINE (R125, R126). -/
def State.reclaimSlice (s : State) (p : Port) (ptr : Nat) : State :=
  (s.sweepAll p (List.range' ptr 16)).updMember p fun m =>
    { m with membership := if ptr + 16 < 4096 then .reclaiming (ptr + 16) else .offline }

/-- RECLAIM_STEP (R125): taken while the port is RECLAIMING and the device READY (log 3). -/
def execReclaimStep (p : Port) (s : State) : Host.Outcome State Fault Refusal :=
  .next <|
    match s.device, (s.member p).membership with
    | .ready, .reclaiming ptr => s.reclaimSlice p ptr
    | .ready, .offline | .ready, .online | .initializing _, _ => s

/-- SWEEP_COMPLETION (R126): the reclaim step whose slice ends at handle 4095 (log 5). -/
def execSweepCompletion (p : Port) (s : State) : Host.Outcome State Fault Refusal :=
  .next <|
    match s.device, (s.member p).membership with
    | .ready, .reclaiming ptr => if ptr + 16 < 4096 then s else s.reclaimSlice p ptr
    | .ready, .offline | .ready, .online | .initializing _, _ => s

end Sys2Proof.Machine
end

