-- ==== Sys2Proof/Machine/Passing.lean ====
section
/-! DEFINITION. Passing handles between ports (Chapter 4): SEND, TAKE, REFUSE. -/

namespace Sys2Proof.Machine

/-- A SEND that passes its checks (R72, R73, R74): KEEP is flag A, URGENT is flag B. -/
def sendTo (p dest : Port) (e : Entry) (s : State) (h : HandleNo) (k : PoolId) : State :=
  let r := s.record h
  let left := if e.flagA then r.hold p else r.hold p - 1
  let s1 := (if left = 0 then s.lowerCharge k h p else s).writeRecord h
    { r.setHold p left with transit := r.transit + 1 }
  let s2 := s1.addDelivery dest ⟨e.arg0, p, .sent⟩ (if e.flagB then .urgent else .normal)
  s2.answer p e .ok
    { res1 := word left, res2 := word (r.transit + 1), res3 := word (s2.member dest).inbound.size }

/-- The checks of SEND after NOT_HOLDER, in the order of R71. -/
def sendChecks (p : Port) (e : Entry) (s : State) (h : HandleNo) (k : PoolId) : State :=
  match portArg e.arg1 with
  | none => s.answer p e .badDest
  | some dest =>
    if dest = p then s.answer p e .badDest
    else if !s.isOnline dest then s.answer p e .destOffline
    else if 32 ≤ (s.member dest).inbound.size then s.answer p e .destFull
    else if (s.record h).transit = 7 then s.answer p e .transitLimit
    else sendTo p dest e s h k

/-- SEND once taken from an ONLINE port (R71). -/
def sendBody (p : Port) (e : Entry) (s : State) : State :=
  s.withToken p e fun h k => sendChecks p e s h k

/-- SEND (R71 to R74). -/
def execSend (p : Port) (s : State) : Host.Outcome State Fault Refusal :=
  .next (s.takeCommand p (· == Code.send) (sendBody p))

/-- A TAKE that accepts its chosen delivery (R77). -/
def acceptDelivery (p : Port) (e : Entry) (s : State) (d : Delivery) (c : DeliveryClass) : State :=
  let h := tokenHandle d.token
  let r := s.record h
  let hold := r.hold p + 1
  let s1 := (s.popDelivery p).writeRecord h { r.setHold p hold with transit := r.transit - 1 }
  let s2 :=
    match r.state.pool? with
    | some k => if r.hold p = 0 then s1.raiseCharge k h p else s1
    | none => s1
  s2.answer p e .ok
    { res1 := d.token, res2 := deliveryWord d c hold, res3 := r.length, res4 := r.tag }

/-- TAKE once taken from an ONLINE port (R76, R78). -/
def takeBody (p : Port) (e : Entry) (s : State) : State :=
  match (s.member p).inbound.chosen with
  | none => s.answer p e .empty
  | some (d, c) =>
    let h := tokenHandle d.token
    let r := s.record h
    if !r.verifies then s.answerFault p e h
    else if r.hold p = 7 then
      s.answer p e .holdLimit { res1 := d.token, res2 := deliveryWord d c 7 }
    else acceptDelivery p e s d c

/-- TAKE (R76 to R78). -/
def execTake (p : Port) (s : State) : Host.Outcome State Fault Refusal :=
  .next (s.takeCommand p (· == Code.take) (takeBody p))

/-- Whether a refused delivery is returned: it is SENT, its sender is ONLINE and the sender's queue has
room (R80). -/
def returnable (s : State) (d : Delivery) : Bool :=
  decide (d.kind = .sent) && s.isOnline d.sender && decide ((s.member d.sender).inbound.size < 32)

/-- The chosen delivery goes back to its sender, as RETURNED by the refusing port (R80, R82). -/
def returnDelivery (p : Port) (e : Entry) (s : State) (d : Delivery) (c : DeliveryClass) : State :=
  ((s.popDelivery p).addDelivery d.sender ⟨d.token, p, .returned⟩ c).answer p e .ok
    { res1 := d.token, res2 := deliveryWord d c 0 }

/-- The chosen delivery is dropped (R70, R81, R82). -/
def dropDelivery (p : Port) (e : Entry) (s : State) (d : Delivery) (c : DeliveryClass) : State :=
  let done := (s.popDelivery p).lowerTransit (tokenHandle d.token)
  done.1.answer p e .dropped
    { res1 := d.token, res2 := deliveryWord d c 0, res3 := done.2.code, res4 := done.2.waiter }

/-- REFUSE once taken from an ONLINE port (R79). -/
def refuseBody (p : Port) (e : Entry) (s : State) : State :=
  match (s.member p).inbound.chosen with
  | none => s.answer p e .empty
  | some (d, c) =>
    let h := tokenHandle d.token
    if !(s.record h).verifies then s.answerFault p e h
    else if returnable s d then returnDelivery p e s d c
    else dropDelivery p e s d c

/-- REFUSE (R79 to R82). -/
def execRefuse (p : Port) (s : State) : Host.Outcome State Fault Refusal :=
  .next (s.takeCommand p (· == Code.refuse) (refuseBody p))

end Sys2Proof.Machine
end

