-- ==== Sys2Proof/Machine/Pools.lean ====
section
/-! DEFINITION. Pools (Chapter 2): CREATE, QUOTA, POOLSTAT, WATCH, UNWATCH, CLOSE, RETIRE, RESTORE, and the
rows WATCH_FIRE and DRAIN_COMPLETION. -/

namespace Sys2Proof.Machine

/-- The first handle of a list whose record fails its entry check or is not UNASSIGNED (R26 step 5). -/
def State.firstBlocked (s : State) (hs : List HandleNo) : Option HandleNo :=
  hs.find? fun h => !(s.record h).verifies || decide ((s.record h).state ≠ .unassigned)

/-- Every handle of a list becomes FREE in the pool, its generation as it was (R27). -/
def State.freeAll (s : State) (k : PoolId) : List HandleNo → State
  | [] => s
  | h :: rest => (s.writeRecord h (.blank (.free k) (s.record h).gen)).freeAll k rest

/-- The pool record CREATE makes: the range on the stack, lowest number on top, and all four quotas equal
to the count (R25, R27). -/
def PoolRec.created (first count : Nat) : PoolRec :=
  { PoolRec.unconfigured with
    state := .active
    first := first
    count := count
    stack := List.range' first count
    quota := Vector.replicate 4 count }

/-- CREATE's reading of its range, and its effects (R26 step 5, R27). -/
def createOver (p : Port) (k : PoolId) (first count : Nat) (e : Entry) (s : State) : State :=
  let range := List.range' first count
  match s.firstBlocked range with
  | some h =>
    if !(s.record h).verifies then s.answerFault p e h
    else s.answer p e .rangeConflict { res1 := word h }
  | none => ((s.freeAll k range).updPool k fun _ => .created first count).answer p e .ok

/-- The checks of CREATE in the order of R26. -/
def createBody (p : Port) (e : Entry) (s : State) : State :=
  let first := e.arg1.toNat
  let count := e.arg2.toNat
  match poolArg e.arg0 with
  | none => s.answer p e .badArg
  | some k =>
    if count = 0 ∨ 4096 < count ∨ 4096 < first + count then s.answer p e .badArg
    else if !s.holdsLease p then s.answer p e .noLease
    else if (s.pool k).state ≠ .unconfigured then s.answer p e .poolBusy
    else createOver p k first count e s

/-- CREATE (R26, R27). -/
def execCreate (p : Port) (s : State) : Host.Outcome State Fault Refusal :=
  .next (s.takeCommand p (· == Code.create) (createBody p))

/-- QUOTA once taken from an ONLINE port (R28). -/
def quotaBody (p : Port) (e : Entry) (s : State) : State :=
  match poolArg e.arg0, portArg e.arg1 with
  | some k, some t =>
    if 4096 < e.arg2.toNat then s.answer p e .badArg
    else if !s.holdsLease p then s.answer p e .noLease
    else if (s.pool k).state = .unconfigured then s.answer p e .noPool
    else
      (s.updPool k fun q => { q with quota := q.quota.set t.val e.arg2.toNat t.isLt }).answer p e .ok
        { res1 := word (s.pool k).charge[t], res2 := word (s.pool k).quota[t] }
  | none, some _ | some _, none | none, none => s.answer p e .badArg

/-- QUOTA (R28). -/
def execQuota (p : Port) (s : State) : Host.Outcome State Fault Refusal :=
  .next (s.takeCommand p (· == Code.quota) (quotaBody p))

/-- POOLSTAT once taken from an ONLINE port: flag A selects the page (R29, Table 2-3). -/
def poolstatBody (p : Port) (e : Entry) (s : State) : State :=
  match poolArg e.arg0 with
  | none => s.answer p e .badArg
  | some k =>
    let q := s.pool k
    if e.flagA then
      s.answer p e .ok { res1 := word q.first, res2 := word q.count, res3 := word q.retired }
    else
      s.answer p e .ok
        { res1 := q.poolWord, res2 := word q.depth, res3 := word q.charge[p], res4 := word q.quota[p] }

/-- POOLSTAT (R29). -/
def execPoolstat (p : Port) (s : State) : Host.Outcome State Fault Refusal :=
  .next (s.takeCommand p (· == Code.poolstat) (poolstatBody p))

/-- Arm the port's watch, then fire it at once if the depth already reaches the threshold (R32, R33). -/
def armWatch (p : Port) (k : PoolId) (threshold : Nat) (e : Entry) (s : State) : State :=
  let depth := (s.pool k).depth
  let s1 := s.updPool k fun q => { q with watches := q.watches.set p.val (some threshold) p.isLt }
  if threshold ≤ depth then
    (s1.fireWatch k p).answer p e .ok { res1 := watchFiredCode, res2 := word depth }
  else s1.answer p e .ok { res1 := watchArmed, res2 := word depth }

/-- The checks of WATCH in the order of R32. -/
def watchBody (p : Port) (e : Entry) (s : State) : State :=
  match poolArg e.arg0 with
  | none => s.answer p e .badArg
  | some k =>
    match (s.pool k).state with
    | .unconfigured => s.answer p e .noPool
    | .draining => s.answer p e .poolDraining
    | .active =>
      if e.arg1.toNat = 0 ∨ (s.pool k).count < e.arg1.toNat then s.answer p e .badArg
      else armWatch p k e.arg1.toNat e s

/-- WATCH (R32). -/
def execWatch (p : Port) (s : State) : Host.Outcome State Fault Refusal :=
  .next (s.takeCommand p (· == Code.watch) (watchBody p))

/-- UNWATCH once taken from an ONLINE port (R34). -/
def unwatchBody (p : Port) (e : Entry) (s : State) : State :=
  match poolArg e.arg0 with
  | none => s.answer p e .badArg
  | some k =>
    (s.updPool k fun q => { q with watches := q.watches.set p.val none p.isLt }).answer p e .ok
      { res1 := flagWord (s.pool k).watches[p].isSome }

/-- UNWATCH (R34). -/
def execUnwatch (p : Port) (s : State) : Host.Outcome State Fault Refusal :=
  .next (s.takeCommand p (· == Code.unwatch) (unwatchBody p))

/-- Post POOL_DRAINING to each waiter of a closed pool, oldest first (R37 step 1). -/
def State.turnAwayAll (s : State) : List WaitEntry → State
  | [] => s
  | w :: rest => (s.postDeferred w .poolDraining).turnAwayAll rest

/-- A pool that CLOSE has made DRAINING: no waiter, no watch, no closer yet (R37 steps 1 to 3). -/
def PoolRec.closing (q : PoolRec) : PoolRec :=
  { q with state := .draining, waitList := [], watches := Vector.replicate 4 none, closer := none }

/-- CLOSE of an ACTIVE pool (R37). -/
def closeActive (p : Port) (k : PoolId) (e : Entry) (s : State) : State :=
  let s1 := (s.turnAwayAll (s.pool k).waitList).updPool k PoolRec.closing
  let q := s1.pool k
  let inUse := word (q.count - q.depth - q.retired)
  if q.drained then (s1.teardown k).answer p e .ok { res1 := closeClosed, res2 := inUse }
  else
    (s1.updPool k fun q => { q with closer := some p }).answer p e .ok
      { res1 := closeDraining, res2 := inUse }

/-- The checks of CLOSE in the order of R36. -/
def closeBody (p : Port) (e : Entry) (s : State) : State :=
  match poolArg e.arg0 with
  | none => s.answer p e .badArg
  | some k =>
    if !s.holdsLease p then s.answer p e .noLease
    else
      match (s.pool k).state with
      | .unconfigured => s.answer p e .noPool
      | .draining => s.answer p e .poolDraining
      | .active => closeActive p k e s

/-- CLOSE (R36, R37). -/
def execClose (p : Port) (s : State) : Host.Outcome State Fault Refusal :=
  .next (s.takeCommand p (· == Code.close) (closeBody p))

/-- The checks RETIRE and RESTORE share (R42 steps 2 to 4); `body` is given the handle and its record. -/
def State.withHandle (s : State) (p : Port) (e : Entry) (body : HandleNo → HandleRec → State) : State :=
  match handleArg e.arg0 with
  | none => s.answer p e .badArg
  | some h =>
    if !s.holdsLease p then s.answer p e .noLease
    else if !(s.record h).verifies then s.answerFault p e h
    else body h (s.record h)

/-- RETIRE of a FREE handle (R43). -/
def retireFree (p : Port) (e : Entry) (s : State) (h : HandleNo) (k : PoolId) : State :=
  let s1 := s.updPool k fun q => { q with stack := q.stack.erase h, retired := q.retired + 1 }
  (s1.writeRecord h (.blank (.retired k .admin) ((s.record h).gen + 1))).answer p e .ok
    { res1 := (HandleState.free k).code.setWidth 16 }

/-- The charge of one port falls if it holds the handle (R44 step 1). -/
def State.lowerIfHeld (s : State) (k : PoolId) (h : HandleNo) (r : HandleRec) (q : Port) : State :=
  if r.hold q = 0 then s else s.lowerCharge k h q

/-- RETIRE of an IN_USE handle (R44). -/
def retireInUse (p : Port) (e : Entry) (s : State) (h : HandleNo) (k : PoolId) : State :=
  let r := s.record h
  let s1 := (((s.lowerIfHeld k h r 0).lowerIfHeld k h r 1).lowerIfHeld k h r 2).lowerIfHeld k h r 3
  let s2 := (s1.writeRecord h (.blank (.retired k .admin) (r.gen + 1))).removeDeliveries h
  let s3 := s2.updPool k fun q => { q with retired := q.retired + 1 }
  (s3.drainTest k).answer p e .ok
    { res1 := (HandleState.inUse k).code.setWidth 16, res2 := word (s.deliveriesOf h) }

/-- RETIRE once taken from an ONLINE port (R42 to R44). -/
def retireBody (p : Port) (e : Entry) (s : State) : State :=
  s.withHandle p e fun h r =>
    match r.state with
    | .unassigned => s.answer p e .noPool
    | .retired _ _ => s.answer p e .alreadyRetired
    | .free k => retireFree p e s h k
    | .inUse k => retireInUse p e s h k

/-- RETIRE (R42 to R44). -/
def execRetire (p : Port) (s : State) : Host.Outcome State Fault Refusal :=
  .next (s.takeCommand p (· == Code.retire) (retireBody p))

/-- RESTORE of a RETIRED handle (R45): the retired count falls and the handle is disposed. -/
def restoreHandle (p : Port) (e : Entry) (s : State) (h : HandleNo) (k : PoolId) : State :=
  let d := (s.updPool k fun q => { q with retired := q.retired - 1 }).dispose h
  d.1.answer p e .ok { res1 := d.2.code, res2 := d.2.waiter }

/-- RESTORE once taken from an ONLINE port (R42, R45). -/
def restoreBody (p : Port) (e : Entry) (s : State) : State :=
  s.withHandle p e fun h r =>
    match r.state with
    | .retired k _ => restoreHandle p e s h k
    | .unassigned | .free _ | .inUse _ => s.answer p e .notRetired

/-- RESTORE (R42, R45). -/
def execRestore (p : Port) (s : State) : Host.Outcome State Fault Refusal :=
  .next (s.takeCommand p (· == Code.restore) (restoreBody p))

/-- WATCH_FIRE (R33): the firing of an armed watch whose threshold the depth has reached. In the states
between events no armed watch is in that case, so a WATCH_FIRE of its own then changes nothing (log 6). -/
def execWatchFire (k : PoolId) (p : Port) (s : State) : Host.Outcome State Fault Refusal :=
  .next (s.testWatch k p)

/-- DRAIN_COMPLETION (R39, R40): the teardown of a DRAINING pool with depth plus retired equal to count. In
the states between events no pool is in that case, so a DRAIN_COMPLETION of its own then changes nothing
(log 6). -/
def execDrainCompletion (k : PoolId) (s : State) : Host.Outcome State Fault Refusal :=
  .next (s.drainTest k)

end Sys2Proof.Machine
end

