-- ==== Sys2Proof/Machine/Recount.lean ====
section
/-! DEFINITION. Charge recount (Chapter 5): RECOUNT, the recount step and the completion. -/

namespace Sys2Proof.Machine

/-- The recount record RECOUNT creates (R86). -/
def RecountRec.start (first : Nat) (p : Port) : RecountRec :=
  ⟨Vector.replicate 4 0, first, some p, false⟩

/-- The checks of RECOUNT in the order of R86, and its effect. -/
def recountBody (p : Port) (e : Entry) (s : State) : State :=
  match poolArg e.arg0 with
  | none => s.answer p e .badArg
  | some k =>
    let q := s.pool k
    if !s.holdsLease p then s.answer p e .noLease
    else if q.state = .unconfigured then s.answer p e .noPool
    else if q.recount.isSome then s.answer p e .recountBusy
    else
      (s.updPool k fun q => { q with recount := some (.start q.first p) }).answer p e .ok
        { res1 := word ((q.count + 15) / 16), res2 := flagWord q.recountNeeded }

/-- RECOUNT (R86). -/
def execRecount (p : Port) (s : State) : Host.Outcome State Fault Refusal :=
  .next (s.takeCommand p (· == Code.recount) (recountBody p))

/-- A shadow charge plus 1 if the port holds the handle, whatever the size of the hold (R87). -/
def countOne (shadow : Vector Nat 4) (r : HandleRec) (p : Port) : Vector Nat 4 :=
  if r.hold p = 0 then shadow else shadow.set p.val (shadow[p] + 1) p.isLt

/-- The shadow charges with one record counted (R87): only an IN_USE record adds. -/
def countHolders (r : HandleRec) (shadow : Vector Nat 4) : Vector Nat 4 :=
  if r.state.isInUse then countOne (countOne (countOne (countOne shadow r 0) r 1) r 2) r 3
  else shadow

/-- A recount step's work on its handles, in increasing number (R87, R88). It ends where the path of a
check fault has torn the pool down, since the recount record is then gone. -/
def State.countAll (s : State) (k : PoolId) : List HandleNo → State
  | [] => s
  | h :: rest =>
    match (s.pool k).recount with
    | none => s
    | some _ =>
      let r := s.record h
      (if r.verifies then
        s.updPool k fun q =>
          { q with recount := q.recount.map fun rc => { rc with shadow := countHolders r rc.shadow } }
      else s.sweepFault h).countAll k rest

/-- Completion of a recount (R91): the charges become the shadow charges, the flag is cleared unless the
recount was disturbed, the record goes, and POOL is set at the requester if one is recorded. -/
def State.completeRecount (s : State) (k : PoolId) (rc : RecountRec) : State :=
  let s1 := s.updPool k fun q =>
    { q with
      charge := rc.shadow
      recountNeeded := if rc.disturbed then q.recountNeeded else false
      recount := none }
  match rc.requester with
  | some p => s1.raise p .pool
  | none => s1

/-- The end of a recount step's slice: sixteen handles on, or the end of the range (R87). -/
def PoolRec.sliceEnd (q : PoolRec) (pointer : Nat) : Nat :=
  min (pointer + 16) (q.first + q.count)

/-- One recount step of pool k with the pointer as given: count the slice, then advance the pointer, and
complete where it reaches the end of the range (R87, R91). -/
def State.recountSlice (s : State) (k : PoolId) (pointer : Nat) : State :=
  let q := s.pool k
  let stop := q.sliceEnd pointer
  let s1 := s.countAll k (List.range' pointer (stop - pointer))
  match (s1.pool k).recount with
  | none => s1
  | some rc =>
    if stop = q.first + q.count then s1.completeRecount k rc
    else s1.updPool k fun q => { q with recount := some { rc with pointer := stop } }

/-- RECOUNT_STEP (R87): taken while a recount runs in the pool and the device is READY (log 3). -/
def execRecountStep (k : PoolId) (s : State) : Host.Outcome State Fault Refusal :=
  .next <|
    match s.device, (s.pool k).recount with
    | .ready, some rc => s.recountSlice k rc.pointer
    | .ready, none | .initializing _, _ => s

/-- RECOUNT_COMPLETION (R91): the recount step whose slice ends at the last handle of the range (log 5). -/
def execRecountCompletion (k : PoolId) (s : State) : Host.Outcome State Fault Refusal :=
  .next <|
    match s.device, (s.pool k).recount with
    | .ready, some rc =>
      if (s.pool k).sliceEnd rc.pointer = (s.pool k).first + (s.pool k).count then
        s.recountSlice k rc.pointer
      else s
    | .ready, none | .initializing _, _ => s

end Sys2Proof.Machine
end

