-- ==== Sys2Proof/Machine/Startup.lean ====
section
/-! DEFINITION. Start-up (Chapter 9): DEVICE_RESET, DEVICE_RESET_RELEASE, INITIALIZATION_WRITE, DEVICE_READY. -/

namespace Sys2Proof.Machine

/-- A port interface after device reset: its reset values, with the level of its own PxRST_N as it was
(R144, log 9). -/
def Window.afterDeviceReset (w : Window) : Window :=
  { Window.reset with resetAsserted := w.resetAsserted }

/-- DEVICE_RESET (R144): every block returns to its reset values, and the contents of the handle table
become undefined anew (log 1). The pins of the buses and the queue of waiting events are outside the part,
and a read in progress keeps its word (log 10). -/
def execDeviceReset (s : State) : Host.Outcome State Fault Refusal :=
  .next
    { State.reset with
      era := s.era + 1
      windows := s.windows.map Window.afterDeviceReset
      buses := s.buses
      pending := s.pending }

/-- DEVICE_RESET_RELEASE (R145): the release of RST_N starts the initialization controller and the
timebase divider. -/
def execDeviceResetRelease (s : State) : Host.Outcome State Fault Refusal :=
  .next { s with rstAsserted := false }

/-- The initialization controller writes the next record; the event that writes handle 4095 makes the
device READY (R145). -/
def State.initializeRecord (s : State) (next : Nat) : State :=
  { s with
    handles := Table.put next .initial s.handles
    device := if next + 1 < 4096 then .initializing (next + 1) else .ready }

/-- INITIALIZATION_WRITE (R145): the controller does not run while RST_N is asserted (R144), nor once the
device is READY. -/
def execInitializationWrite (s : State) : Host.Outcome State Fault Refusal :=
  .next <|
    match s.device with
    | .initializing next => if s.rstAsserted then s else s.initializeRecord next
    | .ready => s

/-- DEVICE_READY (R145): the event that writes handle 4095 and makes the device READY (log 5). -/
def execDeviceReady (s : State) : Host.Outcome State Fault Refusal :=
  .next <|
    match s.device with
    | .initializing next => if s.rstAsserted || decide (next + 1 < 4096) then s else s.initializeRecord next
    | .ready => s

end Sys2Proof.Machine
end

