-- ==== Sys2Proof/Machine/WindowAccess.lean ====
section
/-! DEFINITION. Accesses to a port's window (Chapter 6): COMMAND_POST, ATTN_WRITE, ATTNEN_WRITE, RESPOP,
WATCHSET_READ, REGISTER_WRITE, and the window side of a port reset. -/

namespace Sys2Proof.Machine

/-- A write to CMD (R96, R97): accepted while the device is READY, the port is not RECLAIMING and the
queue holds fewer than 4 entries; otherwise discarded with OVERRUN. -/
def State.writeCmd (s : State) (p : Port) (v : Word) : State :=
  let w := s.window p
  if s.device = .ready ∧ !(s.member p).membership.isReclaiming ∧ w.queue.length < 4 then
    s.updWindow p fun w => { w with queue := w.queue ++ [commandEntry v w.arg0 w.arg1 w.arg2] }
  else s.raise p .overrun

/-- A write to ATTN clears each sticky cause written as 1 (R108). -/
def State.writeAttn (s : State) (p : Port) (v : Word) : State :=
  s.updWindow p fun w => { w with sticky := w.sticky.clearedBy v }

/-- A write to ATTNEN replaces the eight enables by bits 7..0 (R109, R150). -/
def State.writeAttnen (s : State) (p : Port) (v : Word) : State :=
  s.updWindow p fun w => { w with enables := v.setWidth 8 }

/-- A write to RESPOP removes the oldest result, if there is one (R104). -/
def State.writeRespop (s : State) (p : Port) : State :=
  s.updWindow p fun w => { w with results := w.results.tail }

/-- COMMAND_POST (R96, R97); ignored while the window is ignored (R94, R144). -/
def execCommandPost (p : Port) (v : Word) (s : State) : Host.Outcome State Fault Refusal :=
  .next (if s.ignoresWindow p then s else s.writeCmd p v)

/-- ATTN_WRITE (R108). -/
def execAttnWrite (p : Port) (v : Word) (s : State) : Host.Outcome State Fault Refusal :=
  .next (if s.ignoresWindow p then s else s.writeAttn p v)

/-- ATTNEN_WRITE (R109). -/
def execAttnenWrite (p : Port) (v : Word) (s : State) : Host.Outcome State Fault Refusal :=
  .next (if s.ignoresWindow p then s else s.writeAttnen p v)

/-- RESPOP (R104), whatever value is written. -/
def execRespop (p : Port) (_v : Word) (s : State) : Host.Outcome State Fault Refusal :=
  .next (if s.ignoresWindow p then s else s.writeRespop p)

/-- The arrival of a read of any location (R94, R149): the word the location holds is captured, and a read of
WATCHSET empties the set within the same access (R35). While the window is ignored every read captures
0000h and empties nothing (log 14). -/
def State.readArrives (s : State) (p : Port) (off : BitVec 4) : State :=
  (if off = Offset.watchset ∧ !s.ignoresWindow p then s.updWindow p fun w => { w with watchFired := 0 }
    else s).capture p (s.windowRead p off)

/-- WATCHSET_READ (R35, R111). -/
def execWatchsetRead (p : Port) (s : State) : Host.Outcome State Fault Refusal :=
  .next (s.readArrives p Offset.watchset)

/-- A write to any location of the window (Table 6-1). -/
def State.windowWrite (s : State) (p : Port) (off : BitVec 4) (v : Word) : State :=
  if off = Offset.attn then s.writeAttn p v
  else if off = Offset.attnen then s.writeAttnen p v
  else if off = Offset.arg0 then s.updWindow p fun w => { w with arg0 := v }
  else if off = Offset.arg1 then s.updWindow p fun w => { w with arg1 := v }
  else if off = Offset.arg2 then s.updWindow p fun w => { w with arg2 := v }
  else if off = Offset.cmd then s.writeCmd p v
  else if off = Offset.respop then s.writeRespop p
  else s

/-- The arrival of a write to any location (R94): ignored while the window is ignored. -/
def State.writeArrives (s : State) (p : Port) (off : BitVec 4) (v : Word) : State :=
  if s.ignoresWindow p then s else s.windowWrite p off v

/-- REGISTER_WRITE (R94, R95): stores ARG0 to ARG2 and is ignored at the read-only locations. Its
well-formed forms name no location with behaviour of its own; the others act as that location does
(log 15). -/
def execRegisterWrite (p : Port) (off : BitVec 4) (v : Word) (s : State) :
    Host.Outcome State Fault Refusal :=
  .next (s.writeArrives p off v)

/-- PORT_RESET_WINDOW (R112): the window is emptied, and accesses are ignored from here until the
deassertion arrives (R94). One that the queue names while PxRST_N is already asserted, which R121 does not
let arrive, empties the window again: the model's choice (log 21). -/
def execPortResetWindow (p : Port) (s : State) : Host.Outcome State Fault Refusal :=
  .next (s.updWindow p fun w => { w.cleared with resetAsserted := true })

/-- PORT_RESET_RELEASE (R94): accesses act again. -/
def execPortResetRelease (p : Port) (s : State) : Host.Outcome State Fault Refusal :=
  .next (s.updWindow p fun w => { w with resetAsserted := false })

end Sys2Proof.Machine
end

