-- ==== Sys2Proof/Machine/Dispatch.lean ====
section
/-! DEFINITION. The meaning of each command: one arm for each constructor of Instr. -/

namespace Sys2Proof.Machine

def exec (i : Instr) (s : State) : Host.Outcome State Fault Refusal :=
  match i with
  -- Commands the pool engine takes
  | .join p => Sys2Proof.Machine.execJoin p s
  | .leave p => Sys2Proof.Machine.execLeave p s
  | .allocate p => Sys2Proof.Machine.execAllocate p s
  | .release p => Sys2Proof.Machine.execRelease p s
  | .retain p => Sys2Proof.Machine.execRetain p s
  | .send p => Sys2Proof.Machine.execSend p s
  | .take p => Sys2Proof.Machine.execTake p s
  | .refuse p => Sys2Proof.Machine.execRefuse p s
  | .describe p => Sys2Proof.Machine.execDescribe p s
  | .inspect p => Sys2Proof.Machine.execInspect p s
  | .watch p => Sys2Proof.Machine.execWatch p s
  | .unwatch p => Sys2Proof.Machine.execUnwatch p s
  | .cancel p => Sys2Proof.Machine.execCancel p s
  | .poolstat p => Sys2Proof.Machine.execPoolstat p s
  | .survey p => Sys2Proof.Machine.execSurvey p s
  | .lease p => Sys2Proof.Machine.execLease p s
  | .unlease p => Sys2Proof.Machine.execUnlease p s
  | .create p => Sys2Proof.Machine.execCreate p s
  | .quota p => Sys2Proof.Machine.execQuota p s
  | .close p => Sys2Proof.Machine.execClose p s
  | .recount p => Sys2Proof.Machine.execRecount p s
  | .retire p => Sys2Proof.Machine.execRetire p s
  | .restore p => Sys2Proof.Machine.execRestore p s
  | .evict p => Sys2Proof.Machine.execEvict p s
  | .unknownCommand p => Sys2Proof.Machine.execUnknownCommand p s
  -- Accesses to a window
  | .commandPost p w => Sys2Proof.Machine.execCommandPost p w s
  | .attnWrite p w => Sys2Proof.Machine.execAttnWrite p w s
  | .attnenWrite p w => Sys2Proof.Machine.execAttnenWrite p w s
  | .respop p w => Sys2Proof.Machine.execRespop p w s
  | .watchsetRead p => Sys2Proof.Machine.execWatchsetRead p s
  | .registerWrite p offset w => Sys2Proof.Machine.execRegisterWrite p offset w s
  -- Port reset
  | .portResetWindow p => Sys2Proof.Machine.execPortResetWindow p s
  | .portResetMembership p => Sys2Proof.Machine.execPortResetMembership p s
  | .portResetRelease p => Sys2Proof.Machine.execPortResetRelease p s
  -- Device reset and initialization
  | .deviceReset => Sys2Proof.Machine.execDeviceReset s
  | .deviceResetRelease => Sys2Proof.Machine.execDeviceResetRelease s
  | .initializationWrite => Sys2Proof.Machine.execInitializationWrite s
  | .deviceReady => Sys2Proof.Machine.execDeviceReady s
  -- The lease unit's tick
  | .millisecondTick => Sys2Proof.Machine.execMillisecondTick s
  | .leaseExpiry => Sys2Proof.Machine.execLeaseExpiry s
  -- Sweeps
  | .reclaimStep p => Sys2Proof.Machine.execReclaimStep p s
  | .sweepCompletion p => Sys2Proof.Machine.execSweepCompletion p s
  | .recountStep k => Sys2Proof.Machine.execRecountStep k s
  | .recountCompletion k => Sys2Proof.Machine.execRecountCompletion k s
  -- What happens inside other events
  | .grant h => Sys2Proof.Machine.execGrant h s
  | .watchFire k p => Sys2Proof.Machine.execWatchFire k p s
  | .drainCompletion k => Sys2Proof.Machine.execDrainCompletion k s

end Sys2Proof.Machine
end

