-- ==== Sys2Proof/Machine/Bus.lean ====
section
/-! DEFINITION. The strobe rules of a port's bus (R149): which sampled pin levels are arrivals of a read or a
write, what each arrival does, which word is driven on the data pins and when, and which command an arrival
is. -/

namespace Sys2Proof.Machine

/-- Read enable: PxCS_N and PxRD_N both low (R149). -/
def BusPins.readEnable (b : BusPins) : Bool := b.cs && b.rd

/-- Write enable: PxCS_N and PxWR_N both low (R149). -/
def BusPins.writeEnable (b : BusPins) : Bool := b.cs && b.wr

/-- An access that arrives at the port interface. -/
inductive BusAccess where
  | read (offset : BitVec 4)
  | write (offset : BitVec 4) (data : Word)
deriving DecidableEq, Repr

/-- A read arrives where read enable begins, unless PxWR_N is low then (R149). -/
def BusPhase.readBegins (b : BusPhase) (now : BusPins) : Bool :=
  now.readEnable && !b.before.readEnable && !now.wr

/-- A write arrives where write enable ends, unless PxRD_N was low at any time during it (R149). -/
def BusPhase.writeEnds (b : BusPhase) (now : BusPins) : Bool :=
  b.before.writeEnable && !now.writeEnable && !b.writeSpoilt

/-- The accesses that arrive when the pins change to `now`. The address and data of a write are those at
the end of its enable; they are held past it (Table 9-1). -/
def BusPhase.arrivals (b : BusPhase) (now : BusPins) : List BusAccess :=
  (if b.writeEnds now then [.write b.before.addr b.before.data] else [])
    ++ (if b.readBegins now then [.read now.addr] else [])

/-- The bus after the pins have changed to `now`; the captured word stands. -/
def BusPhase.next (b : BusPhase) (now : BusPins) : BusPhase :=
  { b with
    before := now
    readArrived := now.readEnable && (b.readBegins now || (b.before.readEnable && b.readArrived))
    writeSpoilt := now.writeEnable && (now.rd || (b.before.writeEnable && b.writeSpoilt)) }

/-- Whether PxD is driven: within a read enable that has arrived, and not while both strobes are low
(R149). -/
def BusPhase.driven (b : BusPhase) : Bool :=
  b.before.readEnable && b.readArrived && !b.before.wr

/-- The row of the table an access of port p is: a read other than of WATCHSET has no row, since it captures
its word and changes nothing else (R94, Table 6-1). -/
def BusAccess.command (p : Port) : BusAccess → Option Instr
  | .read off => if off = Offset.watchset then some (.watchsetRead p) else none
  | .write off v =>
    if off = Offset.attn then some (.attnWrite p v)
    else if off = Offset.attnen then some (.attnenWrite p v)
    else if off = Offset.cmd then some (.commandPost p v)
    else if off = Offset.respop then some (.respop p v)
    else some (.registerWrite p off v)

/-- The effect of an access at its arrival (R94, R149). -/
def State.accessArrives (s : State) (p : Port) : BusAccess → State
  | .read off => s.readArrives p off
  | .write off v => s.writeArrives p off v

/-- The pins of port p change to `now` (R149): the accesses that arrive have their effects, a write before a
read that begins at the same moment (log 18), and the bus follows the pins. -/
def State.busMoment (s : State) (p : Port) (now : BusPins) : State :=
  (((s.bus p).arrivals now).foldl (fun u a => u.accessArrives p a) s).updBus p fun b => b.next now

/-- The word port p drives on PxD, if it drives the pins: the word captured at the read's arrival, whatever
has become of the location since (R149, R150). -/
def State.drivenWord (s : State) (p : Port) : Option Word :=
  if (s.bus p).driven then some (s.bus p).readData else none

/-- The commands that a sequence of sampled pin levels of port p spells, in the order of arrival. -/
def busCommands (p : Port) : BusPhase → List BusPins → List Instr
  | _, [] => []
  | b, now :: rest => (b.arrivals now).filterMap (BusAccess.command p) ++ busCommands p (b.next now) rest

end Sys2Proof.Machine
end

