-- ==== Sys2Proof/WellFormed.lean ====
section
/-! DEFINITION. The check on commands: REGISTER_WRITE names a location without behaviour of its own. -/

namespace Sys2Proof

/-- The offsets whose write has a row of its own (Table 6-1): ATTN 1h, ATTNEN 2h, CMD 6h, RESPOP Ch. -/
def hasOwnWrite (offset : BitVec 4) : Bool :=
  offset == 1#4 || offset == 2#4 || offset == 6#4 || offset == 12#4

/-- REGISTER_WRITE is the write to a location without behaviour of its own (R94).
Every other operand is in range by its type. -/
def Instr.wellFormed : Instr → Bool
  | .registerWrite _ offset _ => !hasOwnWrite offset
  | .join _ | .leave _ | .allocate _ | .release _ | .retain _ | .send _ | .take _ | .refuse _
  | .describe _ | .inspect _ | .watch _ | .unwatch _ | .cancel _ | .poolstat _ | .survey _
  | .lease _ | .unlease _ | .create _ | .quota _ | .close _ | .recount _ | .retire _
  | .restore _ | .evict _ | .unknownCommand _ => true
  | .commandPost _ _ | .attnWrite _ _ | .attnenWrite _ _ | .respop _ _ | .watchsetRead _ => true
  | .portResetWindow _ | .portResetMembership _ | .portResetRelease _ => true
  | .deviceReset | .deviceResetRelease | .initializationWrite | .deviceReady => true
  | .millisecondTick | .leaseExpiry => true
  | .reclaimStep _ | .sweepCompletion _ | .recountStep _ | .recountCompletion _ => true
  | .grant _ | .watchFire _ _ | .drainCompletion _ => true

end Sys2Proof
end

