-- ==== Sys2Proof/Safety.lean ====
section
/-! DEFINITION. The terms the statements use: what an event leaves unchanged, what a port is answered, and the
invariants of the part. -/

namespace Sys2Proof.Machine

/-! ### What an event changes -/

/-- The function `f` with the value `b` at `i`. -/
def changeAt {α β : Type} [DecidableEq α] (f : α → β) (i : α) (b : β) : α → β :=
  fun j => if j = i then b else f j

/-- The device, the timebase, the port buses and the queue of waiting events stand. -/
def SameDevice (s t : State) : Prop :=
  t.device = s.device ∧ t.rstAsserted = s.rstAsserted ∧ t.era = s.era ∧ t.divider = s.divider
    ∧ t.buses = s.buses ∧ t.pending = s.pending

/-- The state t in full: every handle record, pool record, port record with its inbound queue, and port
interface, the lease, the fault count and the arbiter's pointer are as given, and what is not given is as in
s. So one use of `Becomes` states an effect together with its frame. -/
def Becomes (s t : State) (record : HandleNo → HandleRec := s.record) (pool : PoolId → PoolRec := s.pool)
    (member : Port → Member := s.member) (window : Port → Window := s.window) (lease : Lease := s.lease)
    (faultCount : Nat := s.faultCount) (lastGranted : Port := s.lastGranted) : Prop :=
  SameDevice s t
    ∧ (∀ h, t.record h = record h)
    ∧ (∀ k, t.pool k = pool k)
    ∧ (∀ q, t.member q = member q)
    ∧ (∀ q, t.window q = window q)
    ∧ t.lease = lease ∧ t.faultCount = faultCount ∧ t.lastGranted = lastGranted

/-! ### Windows -/

/-- A window after its oldest command has been taken (R101). -/
def Window.dequeued (w : Window) : Window := { w with queue := w.queue.tail }

/-- A window after a result has been posted at the tail of its FIFO (R102). -/
def Window.posted (w : Window) (e : Entry) (st : Status) (d : Data) : Window :=
  { w with results := w.results ++ [⟨e.code, e.tag, st, d⟩] }

/-- A window after the deferred ALLOCATE result of a wait-list entry has filled its reserved slot (R52). -/
def Window.deferred (w : Window) (v : WaitEntry) (st : Status) (d : Data) : Window :=
  { w with results := w.results ++ [⟨Code.allocate, v.tag, st, d⟩], reserved := 0 }

/-- A window with one sticky cause set (R108). -/
def Window.raised (w : Window) (c : Cause) : Window := { w with sticky := w.sticky.set c }

/-- A window after a firing of its port's watch on pool k (R33). -/
def Window.fired (w : Window) (k : PoolId) : Window :=
  { w with sticky := w.sticky.set .watch, watchFired := w.watchFired ||| (1#16 <<< k.val) }

/-- Whether the port's watch fires at the given depth (R33). -/
def PoolRec.firesAt (q : PoolRec) (p : Port) (depth : Nat) : Bool :=
  q.watches[p].any fun threshold => decide (threshold ≤ depth)

/-- The window of port x after a push in pool k, whose record was q before it (R30 step 1, R33). -/
def Window.notified (w : Window) (q : PoolRec) (k : PoolId) (x : Port) : Window :=
  if q.firesAt x (q.depth + 1) then w.fired k else w

/-- The window of port x after the teardown of a pool with the given closer (R40 step 6). -/
def Window.told (w : Window) (closer : Option Port) (x : Port) : Window :=
  if closer = some x then w.raised .pool else w

/-! ### When a command is taken, and how it is answered -/

/-- The arbiter offers the pool engine the entry `e` of port p, its code is `c`, and the port is ONLINE. -/
def Takes (s : State) (p : Port) (c : BitVec 6) (e : Entry) : Prop :=
  s.offered p = some e ∧ e.code = c ∧ (s.member p).membership = .online

/-- The oldest command of port p leaves its queue, and the arbiter records the grant (R100, R101). -/
def TakenOut (s t : State) (p : Port) : Prop :=
  Becomes s t (window := changeAt s.window p (s.window p).dequeued) (lastGranted := p)

/-- The result of a command is posted, and nothing else changes (R101, R102). -/
def Answered (s t : State) (p : Port) (e : Entry) (st : Status) (d : Data) : Prop :=
  Becomes s t (window := changeAt s.window p ((s.window p).posted e st d))

/-- The event answers the oldest command of port p with `st` and the data words `d`, and does nothing else. -/
def AnswersOnly (c : Instr) (s : State) (p : Port) (e : Entry) (st : Status) (d : Data) : Prop :=
  ∃ t, exec c s = .next t
    ∧ Becomes s t (window := changeAt s.window p ((s.window p).dequeued.posted e st d)) (lastGranted := p)

/-- For a row that takes a queued command: the issuing port and the codes it accepts (Table 10-9, R151). -/
def commandRow : Instr → Option (Port × (BitVec 6 → Bool))
  | .join p => some (p, (· == Code.join))
  | .leave p => some (p, (· == Code.leave))
  | .allocate p => some (p, (· == Code.allocate))
  | .release p => some (p, (· == Code.release))
  | .retain p => some (p, (· == Code.retain))
  | .send p => some (p, (· == Code.send))
  | .take p => some (p, (· == Code.take))
  | .refuse p => some (p, (· == Code.refuse))
  | .describe p => some (p, (· == Code.describe))
  | .inspect p => some (p, (· == Code.inspect))
  | .watch p => some (p, (· == Code.watch))
  | .unwatch p => some (p, (· == Code.unwatch))
  | .cancel p => some (p, (· == Code.cancel))
  | .poolstat p => some (p, (· == Code.poolstat))
  | .survey p => some (p, (· == Code.survey))
  | .lease p => some (p, (· == Code.lease))
  | .unlease p => some (p, (· == Code.unlease))
  | .create p => some (p, (· == Code.create))
  | .quota p => some (p, (· == Code.quota))
  | .close p => some (p, (· == Code.close))
  | .recount p => some (p, (· == Code.recount))
  | .retire p => some (p, (· == Code.retire))
  | .restore p => some (p, (· == Code.restore))
  | .evict p => some (p, (· == Code.evict))
  | .unknownCommand p => some (p, fun c => !Code.named c)
  | .commandPost _ _ | .attnWrite _ _ | .attnenWrite _ _ | .respop _ _ | .watchsetRead _
  | .registerWrite _ _ _ | .portResetWindow _ | .portResetMembership _ | .portResetRelease _
  | .deviceReset | .deviceResetRelease | .initializationWrite | .deviceReady
  | .millisecondTick | .leaseExpiry | .reclaimStep _ | .sweepCompletion _ | .recountStep _
  | .recountCompletion _ | .grant _ | .watchFire _ _ | .drainCompletion _ => none

/-- The token is valid and names handle h of pool k (R6 step 4). -/
def ValidToken (s : State) (t : Word) (h : HandleNo) (k : PoolId) : Prop :=
  tokenHandle t = h ∧ (s.record h).verifies = true ∧ (s.record h).state = .inUse k
    ∧ tokenGen t = (s.record h).gen

/-- The port holds the configuration lease (R139). -/
def HoldsLease (s : State) (p : Port) : Prop := ∃ r, s.lease = .held p r

/-- A number as a flag of a data word: 1 when it holds. -/
def bit (b : Bool) : Word := if b then 1 else 0

/-! ### Disposal, drain completion and the check-fault path -/

/-- The handle is in the range of the pool record. -/
def PoolRec.spans (q : PoolRec) (h : HandleNo) : Prop := q.first ≤ h ∧ h < q.first + q.count

/-- Teardown of pool k (R40): its range becomes UNASSIGNED with each generation as it was, its record becomes
that of an UNCONFIGURED pool, and POOL is set at the closer if one is recorded. -/
def TornDown (s t : State) (k : PoolId) : Prop :=
  (∀ h, (s.pool k).spans h → t.record h = .blank .unassigned (s.record h).gen)
    ∧ (∀ h, ¬ (s.pool k).spans h → t.record h = s.record h)
    ∧ Becomes s t (record := t.record) (pool := changeAt s.pool k .unconfigured)
        (window := fun x => (s.window x).told (s.pool k).closer x)

/-- Drain completion is tested in pool k (R39): a DRAINING pool with depth plus retired equal to count is torn
down, any other pool stands. -/
def DrainTested (s t : State) (k : PoolId) : Prop :=
  ((s.pool k).state = .draining ∧ (s.pool k).depth + (s.pool k).retired = (s.pool k).count →
      TornDown s t k)
    ∧ (¬((s.pool k).state = .draining ∧ (s.pool k).depth + (s.pool k).retired = (s.pool k).count) → t = s)

/-- A pool record after a push of h (R25, R30): h is on top, and each watch whose threshold the new depth
reaches has fired and is disarmed. -/
def PoolRec.pushed (q : PoolRec) (h : HandleNo) : PoolRec :=
  { q with
    stack := h :: q.stack
    watches := Vector.ofFn fun p : Port => if q.firesAt p (q.depth + 1) then none else q.watches[p] }

/-- The disposal of handle h (R9): its generation advances by 1, and it goes to the oldest waiter of its pool, or
onto the free stack with the watch tests and the drain test. `how` says how it ended. A record that names no
pool goes nowhere (log 16: no state that a run reaches disposes of one). -/
def Disposes (s t : State) (h : HandleNo) (how : Disposition) : Prop :=
  (∀ k v rest, (s.record h).state.pool? = some k → (s.pool k).waitList = v :: rest →
      how = .granted v.port
        ∧ Becomes s t
            (record := changeAt s.record h
              ((HandleRec.blank (.inUse k) ((s.record h).gen + 1)).setHold v.port 1))
            (pool := changeAt s.pool k
              { (s.pool k).adjustCharge h v.port (· + 1) with waitList := rest })
            (window := changeAt s.window v.port
              ((s.window v.port).deferred v .ok { res1 := mkToken ((s.record h).gen + 1) h })))
  ∧ (∀ k, (s.record h).state.pool? = some k → (s.pool k).waitList = [] →
      how = .free
        ∧ ∃ u, Becomes s u
            (record := changeAt s.record h (.blank (.free k) ((s.record h).gen + 1)))
            (pool := changeAt s.pool k ((s.pool k).pushed h))
            (window := fun x => (s.window x).notified (s.pool k) k x)
          ∧ DrainTested u t k)
  ∧ ((s.record h).state.pool? = none → how = .notDisposed ∧ t = s)

/-- The disposal that follows the loss of a reference where none is left, and nothing where one is (R8). -/
def DisposesIfDone (s t : State) (h : HandleNo) (how : Disposition) : Prop :=
  ((s.record h).refs = 0 → Disposes s t h how)
    ∧ ((s.record h).refs ≠ 0 → how = .notDisposed ∧ t = s)

/-- Whether the recorded state is RETIRED. -/
def HandleState.isRetired : HandleState → Bool
  | .retired _ _ => true
  | .unassigned | .free _ | .inUse _ => false

/-- A pool record after a check fault on a handle of its range, by the state in which R13 treats the record:
popped, or standing on the free stack (FREE, R15), recorded RETIRED (R16), otherwise IN_USE (R14). -/
def PoolRec.afterFault (q : PoolRec) (h : HandleNo) (st : HandleState) (popped : Bool) : PoolRec :=
  if popped then { q with retired := q.retired + 1 }
  else if h ∈ q.stack then { q with retired := q.retired + 1, stack := q.stack.erase h }
  else if st.isRetired then q
  else
    { q with
      retired := q.retired + 1
      recountNeeded := true
      recount := q.recount.map fun rc => { rc with disturbed := true } }

/-- The check-fault path for handle h, apart from the FAULT cause (R13 to R17). -/
def FaultPath (s t : State) (h : HandleNo) (popped : Bool) : Prop :=
  (s.poolOf h = none →
      Becomes s t (record := changeAt s.record h (.blank .unassigned (s.record h).gen))
        (faultCount := min 255 (s.faultCount + 1)))
  ∧ ∀ k, s.poolOf h = some k →
      ∃ u, Becomes s u
          (record := changeAt s.record h (.blank (.retired k .check) ((s.record h).gen + 1)))
          (pool := changeAt s.pool k ((s.pool k).afterFault h (s.record h).state popped))
          (member := fun x => { s.member x with inbound := (s.member x).inbound.without h })
          (faultCount := min 255 (s.faultCount + 1))
        ∧ (popped = false ∧ h ∉ (s.pool k).stack ∧ (s.record h).state.isRetired = false →
            DrainTested u t k)
        ∧ (¬(popped = false ∧ h ∉ (s.pool k).stack ∧ (s.record h).state.isRetired = false) → t = u)

/-- FAULT is set at every ONLINE port (R17). -/
def FaultAtOnline (s t : State) : Prop :=
  Becomes s t (window := fun x =>
    if (s.member x).membership = .online then (s.window x).raised .fault else s.window x)

/-- The event is a command of port p whose checks reach the reading of handle h's record (Table 1-3). -/
def ReadsRecord (c : Instr) (s : State) (p : Port) (e : Entry) (h : HandleNo) : Prop :=
  match c with
  | .release q => q = p ∧ Takes s p Code.release e ∧ tokenHandle e.arg0 = h
  | .retain q => q = p ∧ Takes s p Code.retain e ∧ tokenHandle e.arg0 = h
  | .describe q => q = p ∧ Takes s p Code.describe e ∧ tokenHandle e.arg0 = h
  | .send q => q = p ∧ Takes s p Code.send e ∧ tokenHandle e.arg0 = h
  | .inspect q => q = p ∧ Takes s p Code.inspect e ∧ e.arg0.toNat = h ∧ h < 4096
  | .retire q => q = p ∧ Takes s p Code.retire e ∧ e.arg0.toNat = h ∧ h < 4096 ∧ HoldsLease s p
  | .restore q => q = p ∧ Takes s p Code.restore e ∧ e.arg0.toNat = h ∧ h < 4096 ∧ HoldsLease s p
  | .take q => q = p ∧ Takes s p Code.take e
      ∧ ∃ d cl, (s.member p).inbound.chosen = some (d, cl) ∧ tokenHandle d.token = h
  | .refuse q => q = p ∧ Takes s p Code.refuse e
      ∧ ∃ d cl, (s.member p).inbound.chosen = some (d, cl) ∧ tokenHandle d.token = h
  | .create q => q = p ∧ Takes s p Code.create e ∧ HoldsLease s p
      ∧ (∃ k, e.arg0.toNat = k.val ∧ (s.pool k).state = .unconfigured)
      ∧ e.arg2.toNat ≤ 4096 ∧ e.arg1.toNat + e.arg2.toNat ≤ 4096
      ∧ e.arg1.toNat ≤ h ∧ h < e.arg1.toNat + e.arg2.toNat
      ∧ ∀ j, e.arg1.toNat ≤ j → j < h →
          (s.record j).verifies = true ∧ (s.record j).state = .unassigned
  | _ => False

/-! ### Pops, drops, sweeps and counts -/

/-- The pops of one ALLOCATE of port p in pool k (R47, R48), from s to t: the handle of the pop whose record
verified, if there was one, and the number of faulty pops. -/
inductive Pops (p : Port) (k : PoolId) : State → State → Option HandleNo → Nat → Prop where
  | empty (s : State) : (s.pool k).stack = [] → Pops p k s s none 0
  | good (s t : State) (h : HandleNo) (rest : List HandleNo) :
      (s.pool k).stack = h :: rest → (s.record h).verifies = true →
      Becomes s t (pool := changeAt s.pool k { s.pool k with stack := rest }) →
      Pops p k s t (some h) 0
  | faulty (s a b c t : State) (h : HandleNo) (rest : List HandleNo) (o : Option HandleNo) (n : Nat) :
      (s.pool k).stack = h :: rest → (s.record h).verifies = false →
      Becomes s a (pool := changeAt s.pool k { s.pool k with stack := rest }) →
      FaultPath a b h true →
      Becomes b c (window := changeAt b.window p ((b.window p).raised .fault)) →
      Pops p k c t o n → Pops p k s t o (n + 1)

/-- The drops of a departing port's inbound queue, one at a time in the order of R67 (R123), from s to t, and
the number of deliveries dropped. -/
inductive Drops (p : Port) : State → State → Nat → Prop where
  | done (s : State) : (s.member p).inbound.chosen = none → Drops p s s 0
  | drop (s a b t : State) (d : Delivery) (cl : DeliveryClass) (h : HandleNo) (how : Disposition) (n : Nat) :
      (s.member p).inbound.chosen = some (d, cl) → tokenHandle d.token = h →
      (s.record h).verifies = true →
      Becomes s a
        (record := changeAt s.record h { s.record h with transit := (s.record h).transit - 1 })
        (member := changeAt s.member p { s.member p with inbound := (s.member p).inbound.tail }) →
      DisposesIfDone a b h how → Drops p b t n → Drops p s t (n + 1)
  | fault (s a b c t : State) (d : Delivery) (cl : DeliveryClass) (h : HandleNo) (n : Nat) :
      (s.member p).inbound.chosen = some (d, cl) → tokenHandle d.token = h →
      (s.record h).verifies = false →
      Becomes s a
        (member := changeAt s.member p { s.member p with inbound := (s.member p).inbound.tail }) →
      FaultPath a b h false → FaultAtOnline b c → Drops p c t n → Drops p s t n

/-- The reclaim prologue of port p (R122), from s to t, and the number of deliveries dropped: steps 1 to 5 and
8, then the drops of step 6, then PEER at every other ONLINE port (step 7). -/
def Departs (s t : State) (p : Port) (dropped : Nat) : Prop :=
  ∃ a b, Becomes s a
      (pool := fun k => (s.pool k).forget p)
      (member := changeAt s.member p { s.member p with membership := .reclaiming 0 })
      (window := changeAt s.window p { s.window p with reserved := 0 })
      (lease := if s.holdsLease p then .vacant else s.lease)
    ∧ Drops p a b dropped
    ∧ Becomes b t (window := fun x =>
        if x ≠ p ∧ (b.member x).membership = .online then (b.window x).raised .peer else b.window x)

/-- What a reclaim step does at handle h for the departing port p (R125). -/
def SweepsOne (p : Port) (h : HandleNo) (s t : State) : Prop :=
  ((s.record h).verifies = false → ∃ u, FaultPath s u h false ∧ FaultAtOnline u t)
  ∧ ((s.record h).verifies = true →
      ((s.record h).state.isInUse = false ∨ (s.record h).hold p = 0 → t = s)
      ∧ ∀ k, (s.record h).state = .inUse k → (s.record h).hold p ≠ 0 →
          ∃ u how, Becomes s u
              (record := changeAt s.record h ((s.record h).setHold p 0))
              (pool := changeAt s.pool k ((s.pool k).adjustCharge h p (· - 1)))
            ∧ DisposesIfDone u t h how)

/-- A reclaim step's work on a list of handles, one after another (R125). -/
inductive Sweeps (p : Port) : List HandleNo → State → State → Prop where
  | done (s : State) : Sweeps p [] s s
  | next (s u t : State) (h : HandleNo) (rest : List HandleNo) :
      SweepsOne p h s u → Sweeps p rest u t → Sweeps p (h :: rest) s t

/-- The shadow charges with one record counted: plus 1 for each port that holds the handle, where it is IN_USE,
whatever the size of the hold (R87). -/
def countedIn (shadow : Vector Nat 4) (r : HandleRec) : Vector Nat 4 :=
  Vector.ofFn fun p : Port =>
    if r.state.isInUse = true ∧ r.hold p ≠ 0 then shadow[p] + 1 else shadow[p]

/-- A recount step's work on a list of handles of pool k, one after another (R87, R88); it ends where a teardown
has removed the recount record. -/
inductive Counts (k : PoolId) : List HandleNo → State → State → Prop where
  | done (s : State) : Counts k [] s s
  | gone (s : State) (hs : List HandleNo) : (s.pool k).recount = none → Counts k hs s s
  | good (s u t : State) (h : HandleNo) (rest : List HandleNo) (rc : RecountRec) :
      (s.pool k).recount = some rc → (s.record h).verifies = true →
      Becomes s u (pool := changeAt s.pool k
        { s.pool k with recount := some { rc with shadow := countedIn rc.shadow (s.record h) } }) →
      Counts k rest u t → Counts k (h :: rest) s t
  | fault (s a b t : State) (h : HandleNo) (rest : List HandleNo) :
      (s.pool k).recount.isSome = true → (s.record h).verifies = false →
      FaultPath s a h false → FaultAtOnline a b → Counts k rest b t → Counts k (h :: rest) s t

/-- A pool record after the charge of every holder of handle h has fallen by 1 (R44 step 1, R89). -/
def PoolRec.withoutHolders (q : PoolRec) (h : HandleNo) (r : HandleRec) : PoolRec :=
  { q with
    charge := Vector.ofFn fun p : Port => if r.hold p = 0 then q.charge[p] else q.charge[p] - 1
    recount := q.recount.map fun rc =>
      if h < rc.pointer then
        { rc with
          shadow := Vector.ofFn fun p : Port => if r.hold p = 0 then rc.shadow[p] else rc.shadow[p] - 1 }
      else rc }

/-! ### Invariants -/

/-- Wait-list entries of a port, over all pools. -/
def State.waitCount (s : State) (p : Port) : Nat :=
  (allPools.map fun k => (s.pool k).waitList.countP fun w => decide (w.port = p)).sum

/-- The capacities of the queues: a command queue holds at most 4 entries (R98), a result FIFO's entries
plus its reserved slots at most 8 (R102), an inbound queue at most 32 deliveries (R66); a port has a
reserved slot exactly when it has a wait-list entry, and at most one (R50, R105); only ACTIVE pools have
waiters (R50); the fault count is at most 255 (R17). -/
def CapacityInv (s : State) : Prop :=
  (∀ p, (s.window p).queue.length ≤ 4
    ∧ (s.window p).results.length + (s.window p).reserved ≤ 8
    ∧ (s.member p).inbound.size ≤ 32
    ∧ (s.window p).reserved = s.waitCount p
    ∧ s.waitCount p ≤ 1)
  ∧ (∀ k, (s.pool k).state ≠ .active → (s.pool k).waitList = [])
  ∧ s.faultCount ≤ 255

/-- What the pool engine keeps for a port it keeps for an ONLINE port only: a port that is OFFLINE or
RECLAIMING has an empty inbound queue (R66), no wait-list entry, no armed watch, is not the lease holder
(R117, R135), and is not recorded as a closer or a requester (R41, R85). -/
def MembershipInv (s : State) : Prop :=
  ∀ p, (s.member p).membership ≠ .online →
    (s.member p).inbound = ⟨[], []⟩
      ∧ ¬ HoldsLease s p
      ∧ ∀ k, (∀ w ∈ (s.pool k).waitList, w.port ≠ p)
          ∧ (s.pool k).watches[p] = none
          ∧ (s.pool k).closer ≠ some p
          ∧ ∀ rc, (s.pool k).recount = some rc → rc.requester ≠ some p

/-- The handle table is in its canonical form. -/
def TableInv (s : State) : Prop := Table.wf s.handles = true

/-- Whether a handle stands in pool k off its free stack with a recorded state other than RETIRED: the
record is treated as IN_USE even where its entry check fails (R13). -/
def State.treatedInUse (s : State) (k : PoolId) (h : HandleNo) : Bool :=
  (s.pool k).covers h && !(s.pool k).stack.contains h && !(s.record h).state.isRetired

/-- The number of RETIRED handles of a pool: off the free stack and recorded RETIRED (R21). -/
def State.retiredIn (s : State) (k : PoolId) : Nat :=
  (s.pool k).range.countP fun h => !(s.pool k).stack.contains h && (s.record h).state.isRetired

/-- The pool records agree with one another and with the handle table (R21, R24, R27, R50). -/
def PoolsSound (s : State) : Prop :=
  (∀ k, (s.pool k).state = .unconfigured → s.pool k = .unconfigured)
  ∧ (∀ k, (s.pool k).state ≠ .unconfigured →
      0 < (s.pool k).count
        ∧ (s.pool k).first + (s.pool k).count ≤ 4096
        ∧ (s.pool k).stack.Nodup
        ∧ (∀ h ∈ (s.pool k).stack, (s.pool k).covers h = true)
        ∧ ((s.pool k).waitList ≠ [] → (s.pool k).stack = [])
        ∧ (s.pool k).retired = s.retiredIn k)
  ∧ ∀ j k h, (s.pool j).covers h = true → (s.pool k).covers h = true → j = k

/-- What a record whose entry check verifies says agrees with the pools, the stacks and the inbound queues
(R1, R2, R3, R24, R58, R69). -/
def RecordSound (s : State) (h : HandleNo) : Prop :=
  let r := s.record h
  r.verifies = true →
    r.state.pool? = s.poolOf h
    ∧ (∀ k, r.state = .free k ↔ h ∈ (s.pool k).stack)
    ∧ (r.state.isInUse = true → 0 < r.refs)
    ∧ (r.state.isInUse = false → r.refs = 0 ∧ r.length = 0 ∧ r.tag = 0)
    ∧ (∀ p, r.hold p ≤ 7)
    ∧ r.transit ≤ 7
    ∧ r.transit = s.deliveriesOf h
    ∧ ∀ p, ∀ d ∈ (s.member p).inbound.urgent ++ (s.member p).inbound.normal,
        tokenHandle d.token = h → tokenGen d.token = r.gen

/-- The structure of the handle table, the pools and the inbound queues. While the device is INITIALIZING no
pool is configured, every port is as device reset leaves it and the records written so far are initial (R144,
R145).
Once READY, pools and records are sound, and every delivery names a handle treated as IN_USE (R69). -/
def StructureInv (s : State) : Prop :=
  match s.device with
  | .initializing next =>
    (∀ k, s.pool k = .unconfigured)
      ∧ (∀ p, s.member p = ⟨.offline, false, ⟨[], []⟩⟩)
      ∧ ∀ h, h < next ∨ 4096 ≤ h → Table.get h s.handles = .initial
  | .ready =>
    PoolsSound s
      ∧ (∀ h, RecordSound s h)
      ∧ ∀ h, 0 < s.deliveriesOf h → ∃ k, s.treatedInUse k h = true

/-- How many handles of pool k below `limit` verify, are IN_USE and are held by port p. -/
def State.heldBelow (s : State) (k : PoolId) (p : Port) (limit : Nat) : Nat :=
  (s.pool k).range.countP fun h =>
    decide (h < limit) && (s.record h).verifies && (s.record h).state.isInUse
      && decide ((s.record h).hold p ≠ 0)

/-- No record of pool k below `limit` that is treated as IN_USE fails its entry check. -/
def NoneDamagedBelow (s : State) (k : PoolId) (limit : Nat) : Prop :=
  ∀ h, h < limit → s.treatedInUse k h = true → (s.record h).verifies = true

/-- The charges (R22): while recount-needed is clear and no IN_USE record of the pool stands damaged, each
port's charge is the number of the pool's IN_USE handles it holds; and while a recount is undisturbed and
no IN_USE record below its pointer stands damaged, each shadow charge is that number below the pointer
(R87, R89). A disturbed recount has recount-needed set (R14). -/
def ChargeInv (s : State) : Prop :=
  s.device = .ready → ∀ k, (s.pool k).state ≠ .unconfigured →
    ((s.pool k).recountNeeded = false → NoneDamagedBelow s k 4096 →
      ∀ p : Port, (s.pool k).charge[p] = s.heldBelow k p 4096)
    ∧ ∀ rc, (s.pool k).recount = some rc →
        (s.pool k).first ≤ rc.pointer
        ∧ rc.pointer < (s.pool k).first + (s.pool k).count
        ∧ (rc.disturbed = true → (s.pool k).recountNeeded = true)
        ∧ (rc.disturbed = false → NoneDamagedBelow s k rc.pointer →
            ∀ p : Port, rc.shadow[p] = s.heldBelow k p rc.pointer)

/-- A port whose sweep has passed a handle, or that is OFFLINE, has no hold on it (R117, R125, R128). -/
def SweptInv (s : State) : Prop :=
  s.device = .ready → ∀ p h, (s.record h).verifies = true →
    ((s.member p).membership = .offline
      ∨ ∃ n, (s.member p).membership = .reclaiming n ∧ h < n) →
    (s.record h).hold p = 0

end Sys2Proof.Machine
end

