-- ==== Sys2Proof/Certificates/Slice0/Obligations.lean ====
section
/-! DEFINITION. The statements about the PM416. `Becomes` (Safety.lean) names the whole next state, so each
statement of an effect states its frame with it. -/

open Sys2Proof Sys2Proof.Machine

/-! ### The machine -/

/-- A step takes the event at the front of the queue: it is exec of that event on the state with the queue's
rest. On an empty queue the block idles (the model's choice, log 11). -/
def Obligations.StepTakesTheFrontEvent : Prop :=
  (∀ (c : Instr) (rest : List Instr) (s : State),
    s.pending = c :: rest → step s = exec c { s with pending := rest })
  ∧ ∀ s : State, s.pending = [] → step s = .next s

/-- No event stops the part: every event answers a next state and leaves the waiting events as they were. -/
def Obligations.EveryEventHasANextState : Prop :=
  ∀ (c : Instr) (s : State), ∃ t, exec c s = .next t ∧ t.pending = s.pending

/-- The arbiter offers the oldest entry of the first eligible port, counting on from the port above the one it
granted last (R99, R100). It offers none while the device is INITIALIZING, and one whenever the device is READY
and some port is eligible. -/
def Obligations.ArbiterGrantsInTurn : Prop :=
  (∀ (s : State) (p : Port), s.eligible p = true ↔
    (s.window p).queue ≠ []
      ∧ (s.window p).results.length + (s.window p).reserved < 8
      ∧ ∀ n, (s.member p).membership ≠ .reclaiming n)
  ∧ (∀ (s : State) (p : Port) (e : Entry), s.offered p = some e ↔
    s.device = .ready ∧ s.eligible p = true ∧ (s.window p).queue.head? = some e
      ∧ ∃ i : Fin 4, p = s.lastGranted + 1 + i
          ∧ ∀ j : Fin 4, j < i → s.eligible (s.lastGranted + 1 + j) = false)
  ∧ ∀ (s : State) (q : Port), s.device = .ready → s.eligible q = true → ∃ p e, s.offered p = some e

/-- A command row acts only where the arbiter offers the pool engine a command of that row from that port; where
it does not, the event does not come about and nothing changes (the model's choice, log 3). A RECLAIMING port's
commands are not executed, and no command is taken while the device is INITIALIZING. -/
def Obligations.CommandActsOnlyWhereOffered : Prop :=
  ∀ (c : Instr) (s : State) (p : Port) (accepts : BitVec 6 → Bool),
    commandRow c = some (p, accepts) →
    (s.offered p = none → exec c s = .next s)
    ∧ (∀ e, s.offered p = some e → accepts e.code = false → exec c s = .next s)
    ∧ (∀ n, (s.member p).membership = .reclaiming n → exec c s = .next s)
    ∧ (s.device ≠ .ready → exec c s = .next s)

/-- Every command but JOIN that is taken from an OFFLINE port is answered NOT_JOINED, an unknown one among them,
and a command taken from an ONLINE port whose code names no command, 00h and 19h to 3Fh, is answered
UNKNOWN_COMMAND under its own code and tag (R101 steps 1 and 2, R151). -/
def Obligations.CommandsAreCheckedBeforeTheirOwnRule : Prop :=
  (∀ (c : Instr) (s : State) (p : Port) (accepts : BitVec 6 → Bool) (e : Entry),
      commandRow c = some (p, accepts) → c ≠ .join p →
      s.offered p = some e → accepts e.code = true → (s.member p).membership = .offline →
      AnswersOnly c s p e .notJoined {})
  ∧ ∀ (s : State) (p : Port) (e : Entry), s.offered p = some e → (s.member p).membership = .online →
      (e.code = 0 ∨ 0x19 ≤ e.code.toNat) →
      AnswersOnly (.unknownCommand p) s p e .unknownCommand {}

/-! ### Membership -/

/-- JOIN (R118). Of a RECLAIMING port no command is offered, a JOIN among them. -/
def Obligations.JoinMakesThePortOnline : Prop :=
  (∀ (s : State) (p : Port) (e : Entry),
    s.offered p = some e → e.code = Code.join → (s.member p).membership = .offline →
    ∃ t, exec (.join p) s = .next t
      ∧ Becomes s t
          (member := changeAt s.member p { s.member p with membership := .online, evicted := false })
          (window := changeAt s.window p ((s.window p).dequeued.posted e .ok
            { res1 := word p.val, res2 := bit (s.member p).evicted }))
          (lastGranted := p))
  ∧ (∀ (s : State) (p : Port) (e : Entry),
    Takes s p Code.join e → AnswersOnly (.join p) s p e .alreadyJoined {})
  ∧ ∀ (s : State) (p : Port) (n : Nat), (s.member p).membership = .reclaiming n → s.offered p = none

/-- LEAVE (R130): the queue and the FIFO of the port are emptied, the prologue is performed, and the LEAVE result
is posted as the one result. -/
def Obligations.LeaveDeparts : Prop :=
  ∀ (s : State) (p : Port) (e : Entry), Takes s p Code.leave e →
    ∃ a b t n, exec (.leave p) s = .next t
      ∧ Becomes s a (window := changeAt s.window p { s.window p with queue := [], results := [] })
          (lastGranted := p)
      ∧ Departs a b p n
      ∧ Answered b t p e .ok
          { res1 := word n, res2 := bit (s.waitEntryOf p).isSome, res3 := bit (s.holdsLease p) }

/-- EVICT of an ONLINE target by the lease holder (R133): the target's window is reset, EVICTED is set, the
prologue is performed, and then the EVICT is answered. -/
def Obligations.EvictDeparts : Prop :=
  ∀ (s : State) (p x : Port) (e : Entry), Takes s p Code.evict e → HoldsLease s p →
    e.arg0.toNat = x.val → x ≠ p → (s.member x).membership = .online →
    ∃ a b t n, exec (.evict p) s = .next t
      ∧ Becomes s a
          (member := changeAt s.member x { s.member x with evicted := true })
          (window := changeAt (changeAt s.window p (s.window p).dequeued) x
            { s.window x with
              arg0 := 0, arg1 := 0, arg2 := 0, queue := [], results := [], sticky := .clear,
              enables := 0, watchFired := 0 })
          (lastGranted := p)
      ∧ Departs a b x n
      ∧ Answered b t p e .ok { res1 := word x.val, res2 := word n }

/-- The membership side of a port reset (R120): an ONLINE port performs the prologue, at an OFFLINE or
RECLAIMING port nothing changes, in either device state. -/
def Obligations.PortResetDeparts : Prop :=
  ∀ (s : State) (p : Port),
    (s.device = .ready → (s.member p).membership = .online →
      ∃ t n, exec (.portResetMembership p) s = .next t ∧ Departs s t p n)
    ∧ ((s.member p).membership ≠ .online → exec (.portResetMembership p) s = .next s)

/-- What every departure leaves of the port outside the handle table (R122 to R124): RECLAIMING with the sweep at
handle 0, an empty inbound queue, no reservation, no wait-list entry, no watch, no lease, no recorded role; PEER
at every other port that is ONLINE; and the other ports' membership as it was. -/
def Obligations.DepartureLeavesNothingOutsideTheTable : Prop :=
  ∀ (s t : State) (p : Port) (n : Nat), Departs s t p n →
    (t.member p).membership = .reclaiming 0
      ∧ (t.member p).evicted = (s.member p).evicted
      ∧ (t.member p).inbound = ⟨[], []⟩
      ∧ t.window p = { s.window p with reserved := 0 }
      ∧ ¬ HoldsLease t p
      ∧ (¬ HoldsLease s p → t.lease = s.lease)
      ∧ (∀ k, (∀ w ∈ (t.pool k).waitList, w.port ≠ p)
          ∧ (t.pool k).watches[p] = none
          ∧ (t.pool k).closer ≠ some p
          ∧ ∀ rc, (t.pool k).recount = some rc → rc.requester ≠ some p)
      ∧ (∀ q, q ≠ p → (t.member q).membership = (s.member q).membership
          ∧ (t.member q).evicted = (s.member q).evicted
          ∧ ((s.member q).membership = .online → (t.window q).sticky.peer = true))
      ∧ n ≤ (s.member p).inbound.size
      ∧ ((∀ d ∈ (s.member p).inbound.urgent ++ (s.member p).inbound.normal,
            (s.record (tokenHandle d.token)).verifies = true) →
          n = (s.member p).inbound.size)
      ∧ SameDevice s t

/-- The moves of a port's membership are those of R116 and no others. -/
def Obligations.MembershipMovesAsListed : Prop :=
  ∀ (c : Instr) (s t : State) (q : Port), exec c s = .next t →
    (t.member q).membership = (s.member q).membership
    ∨ (c = .deviceReset ∧ (t.member q).membership = .offline)
    ∨ ((s.member q).membership = .offline ∧ (t.member q).membership = .online ∧ c = .join q)
    ∨ ((s.member q).membership = .online ∧ (t.member q).membership = .reclaiming 0
        ∧ (c = .leave q ∨ c = .portResetMembership q ∨ ∃ p, p ≠ q ∧ c = .evict p))
    ∨ ∃ n, (s.member q).membership = .reclaiming n
        ∧ ((n + 16 < 4096 ∧ (t.member q).membership = .reclaiming (n + 16) ∧ c = .reclaimStep q)
          ∨ (4096 ≤ n + 16 ∧ (t.member q).membership = .offline
              ∧ (c = .reclaimStep q ∨ c = .sweepCompletion q)))

/-- SURVEY (R134): the packed words of Table 10-11, bit by bit, the remaining milliseconds and the fault count. -/
def Obligations.SurveyReports : Prop :=
  (∀ (s : State) (p : Port) (e : Entry), s.offered p = some e → e.code = Code.survey →
    (s.member p).membership = .offline → AnswersOnly (.survey p) s p e .notJoined {})
  ∧ ∀ (s : State) (p : Port) (e : Entry), Takes s p Code.survey e →
    ∃ d : Data, AnswersOnly (.survey p) s p e .ok d
      ∧ (∀ q : Port,
          d.res1.extractLsb' (2 * q.val) 2
            = (match (s.member q).membership with
              | .offline => 0#2
              | .online => 1#2
              | .reclaiming _ => 2#2)
          ∧ d.res1.getLsbD (8 + q.val) = (s.member q).evicted)
      ∧ d.res1.extractLsb' 12 4 = 0#4
      ∧ (s.lease = .vacant → d.res2 = 0x0001 ∧ d.res3 = 0)
      ∧ (∀ q r, s.lease = .held q r → d.res2 = 0x0011 + 0x0100 * word q.val ∧ d.res3 = word r)
      ∧ d.res4 = word s.faultCount

/-! ### Allocation -/

/-- ALLOCATE takes the top handle of an ACTIVE pool's stack whose record verifies: the next one becomes the top,
and the handle is IN_USE under its own generation with one hold of the port (R47, R49). -/
def Obligations.AllocatePopsTheTop : Prop :=
  ∀ (s : State) (p : Port) (e : Entry) (k : PoolId) (h : HandleNo) (rest : List HandleNo),
    Takes s p Code.allocate e → e.arg0.toNat = k.val → (s.pool k).state = .active →
    (s.pool k).charge[p] < (s.pool k).quota[p] → (s.pool k).stack = h :: rest →
    (s.record h).verifies = true →
    ∃ t, exec (.allocate p) s = .next t
      ∧ Becomes s t
          (record := changeAt s.record h ((HandleRec.blank (.inUse k) (s.record h).gen).setHold p 1))
          (pool := changeAt s.pool k { (s.pool k).adjustCharge h p (· + 1) with stack := rest })
          (window := changeAt s.window p ((s.window p).dequeued.posted e .ok
            { res1 := mkToken (s.record h).gen h, res2 := 0, res3 := word rest.length }))
          (lastGranted := p)

/-- ALLOCATE in an ACTIVE pool below its quota, with any number of faulty pops before it ends (R46 steps 6 and 7,
R47 to R49, R51): a handle, POOL_EMPTY, WAIT_BUSY, or a waiting allocation that posts nothing. -/
def Obligations.AllocateEndsItsPops : Prop :=
  ∀ (s : State) (p : Port) (e : Entry) (k : PoolId),
    Takes s p Code.allocate e → e.arg0.toNat = k.val → (s.pool k).state = .active →
    (s.pool k).charge[p] < (s.pool k).quota[p] →
    ∃ a b t o n, exec (.allocate p) s = .next t ∧ TakenOut s a p ∧ Pops p k a b o n
      ∧ (∀ h, o = some h → ∃ c,
          Becomes b c
            (record := changeAt b.record h ((HandleRec.blank (.inUse k) (b.record h).gen).setHold p 1))
            (pool := changeAt b.pool k ((b.pool k).adjustCharge h p (· + 1)))
          ∧ Answered c t p e .ok
              { res1 := mkToken (b.record h).gen h, res2 := word n, res3 := word (b.pool k).depth })
      ∧ (o = none → e.flagA = false → Answered b t p e .poolEmpty { res2 := word n })
      ∧ (∀ j w, o = none → e.flagA = true → s.waitEntryOf p = some (j, w) →
          Answered b t p e .waitBusy { res1 := word j.val, res2 := word n })
      ∧ (o = none → e.flagA = true → s.waitEntryOf p = none →
          Becomes b t
            (pool := changeAt b.pool k
              { b.pool k with waitList := (b.pool k).waitList ++ [⟨p, e.tag⟩] })
            (window := changeAt b.window p { b.window p with reserved := 1 }))

/-- CANCEL (R55): the CANCELLED result of the waiting allocation stands before the CANCEL result. -/
def Obligations.CancelEndsTheWait : Prop :=
  (∀ (s : State) (p : Port) (e : Entry), s.offered p = some e → e.code = Code.cancel →
    (s.member p).membership = .offline → AnswersOnly (.cancel p) s p e .notJoined {})
  ∧ ∀ (s : State) (p : Port) (e : Entry), Takes s p Code.cancel e →
    (s.waitEntryOf p = none → AnswersOnly (.cancel p) s p e .nothingWaiting {})
    ∧ ∀ k w, s.waitEntryOf p = some (k, w) →
      ∃ t, exec (.cancel p) s = .next t
        ∧ Becomes s t
            (pool := changeAt s.pool k
              { s.pool k with waitList := (s.pool k).waitList.filter fun v => decide (v.port ≠ p) })
            (window := changeAt s.window p (((s.window p).dequeued.deferred w .cancelled {}).posted e .ok
              { res1 := word k.val, res2 := w.tag.setWidth 16 }))
            (lastGranted := p)

/-! ### Holding -/

/-- RELEASE that passes its checks (R60): the hold falls by 1, the charge falls if the hold reached 0, the handle
is disposed if no reference is left, and the result is posted after all of it. -/
def Obligations.ReleaseGivesBackOneHold : Prop :=
  ∀ (s : State) (p : Port) (e : Entry) (h : HandleNo) (k : PoolId),
    Takes s p Code.release e → ValidToken s e.arg0 h k → (s.record h).hold p ≠ 0 →
    ∃ a b t how, exec (.release p) s = .next t
      ∧ Becomes s a
          (record := changeAt s.record h ((s.record h).setHold p ((s.record h).hold p - 1)))
          (pool := if (s.record h).hold p = 1 then
              changeAt s.pool k ((s.pool k).adjustCharge h p (· - 1)) else s.pool)
          (window := changeAt s.window p (s.window p).dequeued)
          (lastGranted := p)
      ∧ DisposesIfDone a b h how
      ∧ Answered b t p e .ok
          { res1 := word ((s.record h).hold p - 1), res2 := bit (decide (how ≠ .notDisposed))
            res3 := how.code, res4 := how.waiter }

/-- RETAIN (R62): a hold of 1 to 6 rises by 1, a hold of 7 is answered HOLD_LIMIT. -/
def Obligations.RetainAddsOneHold : Prop :=
  ∀ (s : State) (p : Port) (e : Entry) (h : HandleNo) (k : PoolId),
    Takes s p Code.retain e → ValidToken s e.arg0 h k → (s.record h).hold p ≠ 0 →
    ((s.record h).hold p ≠ 7 →
      ∃ t, exec (.retain p) s = .next t
        ∧ Becomes s t
            (record := changeAt s.record h ((s.record h).setHold p ((s.record h).hold p + 1)))
            (window := changeAt s.window p ((s.window p).dequeued.posted e .ok
              { res1 := word ((s.record h).hold p + 1) }))
            (lastGranted := p))
    ∧ ((s.record h).hold p = 7 → AnswersOnly (.retain p) s p e .holdLimit {})

/-- DESCRIBE (R63): both descriptor words are replaced, and the former ones are reported. -/
def Obligations.DescribeReplacesTheWords : Prop :=
  ∀ (s : State) (p : Port) (e : Entry) (h : HandleNo) (k : PoolId),
    Takes s p Code.describe e → ValidToken s e.arg0 h k → (s.record h).hold p ≠ 0 →
    ∃ t, exec (.describe p) s = .next t
      ∧ Becomes s t
          (record := changeAt s.record h { s.record h with length := e.arg1, tag := e.arg2 })
          (window := changeAt s.window p ((s.window p).dequeued.posted e .ok
            { res1 := (s.record h).length, res2 := (s.record h).tag }))
          (lastGranted := p)

/-- Token validation and NOT_HOLDER for RELEASE, RETAIN, DESCRIBE and SEND (R6 steps 2 to 4). -/
def Obligations.TokenCommandsRefuse : Prop :=
  ∀ (s : State) (p : Port) (e : Entry) (c : Instr) (code : BitVec 6),
    (c, code) ∈ [(Instr.release p, Code.release), (.retain p, Code.retain),
      (.describe p, Code.describe), (.send p, Code.send)] →
    Takes s p code e → (s.record (tokenHandle e.arg0)).verifies = true →
    let r := s.record (tokenHandle e.arg0)
    (∀ k reason, r.state = .retired k reason → tokenGen e.arg0 = r.gen - 1 →
      AnswersOnly c s p e .retired {})
    ∧ (∀ k reason, r.state = .retired k reason → tokenGen e.arg0 ≠ r.gen - 1 →
      AnswersOnly c s p e .stale {})
    ∧ (r.state = .unassigned → AnswersOnly c s p e .stale {})
    ∧ (∀ k, r.state = .free k → AnswersOnly c s p e .stale {})
    ∧ (∀ k, r.state = .inUse k → tokenGen e.arg0 ≠ r.gen → AnswersOnly c s p e .stale {})
    ∧ (∀ k, r.state = .inUse k → tokenGen e.arg0 = r.gen → r.hold p = 0 →
      AnswersOnly c s p e .notHolder {})

/-- INSPECT (R20): the record word and the holds word of Table 10-11, field by field, length and tag; and BAD_ARG
above 4095. -/
def Obligations.InspectReports : Prop :=
  ∀ (s : State) (p : Port) (e : Entry), Takes s p Code.inspect e →
    (4096 ≤ e.arg0.toNat → AnswersOnly (.inspect p) s p e .badArg {})
    ∧ (e.arg0.toNat < 4096 → (s.record e.arg0.toNat).verifies = true →
      let r := s.record e.arg0.toNat
      ∃ d : Data, AnswersOnly (.inspect p) s p e .ok d
        ∧ d.res1.extractLsb' 0 2
            = (match r.state with
              | .unassigned => 0#2
              | .free _ => 1#2
              | .inUse _ => 2#2
              | .retired _ _ => 3#2)
        ∧ d.res1.extractLsb' 2 3 = BitVec.ofNat 3 r.transit
        ∧ d.res1.extractLsb' 5 2
            = (match r.state with
              | .retired _ .admin => 1#2
              | .retired _ .check => 2#2
              | .unassigned | .free _ | .inUse _ => 0#2)
        ∧ d.res1.extractLsb' 7 5 = 0#5
        ∧ d.res1.extractLsb' 12 4 = r.gen
        ∧ (∀ q : Port, d.res2.extractLsb' (4 * q.val) 4 = 0#1 ++ BitVec.ofNat 3 (r.hold q))
        ∧ d.res3 = r.length ∧ d.res4 = r.tag)

/-- A command whose read meets a check fault (R18): the check-fault path runs, FAULT is set at the issuing port,
and the command is answered CHECK_FAULT with the handle number, with no further effect. -/
def Obligations.CheckFaultIsAnswered : Prop :=
  ∀ (c : Instr) (s : State) (p : Port) (e : Entry) (h : HandleNo),
    ReadsRecord c s p e h → (s.record h).verifies = false →
    ∃ a b u t, exec c s = .next t ∧ TakenOut s a p ∧ FaultPath a b h false
      ∧ Becomes b u (window := changeAt b.window p ((b.window p).raised .fault))
      ∧ Answered u t p e .checkFault { res1 := word h }

/-! ### Passing -/

/-- SEND that passes its checks (R72 to R74): KEEP is flag A, URGENT is flag B. -/
def Obligations.SendPlacesADelivery : Prop :=
  ∀ (s : State) (p x : Port) (e : Entry) (h : HandleNo) (k : PoolId) (left : Nat),
    Takes s p Code.send e → ValidToken s e.arg0 h k → (s.record h).hold p ≠ 0 →
    e.arg1.toNat = x.val → x ≠ p → (s.member x).membership = .online →
    (s.member x).inbound.size < 32 → (s.record h).transit ≠ 7 →
    left = (if e.flagA then (s.record h).hold p else (s.record h).hold p - 1) →
    ∃ t, exec (.send p) s = .next t
      ∧ Becomes s t
          (record := changeAt s.record h
            { (s.record h).setHold p left with transit := (s.record h).transit + 1 })
          (pool := if left = 0 then changeAt s.pool k ((s.pool k).adjustCharge h p (· - 1)) else s.pool)
          (member := changeAt s.member x
            { s.member x with
              inbound := (s.member x).inbound.join ⟨e.arg0, p, .sent⟩
                (if e.flagB then .urgent else .normal) })
          (window := changeAt s.window p ((s.window p).dequeued.posted e .ok
            { res1 := word left, res2 := word ((s.record h).transit + 1)
              res3 := word ((s.member x).inbound.size + 1) }))
          (lastGranted := p)

/-- TAKE that accepts its chosen delivery (R77). -/
def Obligations.TakeAcceptsTheDelivery : Prop :=
  ∀ (s : State) (p : Port) (e : Entry) (d : Delivery) (cl : DeliveryClass) (h : HandleNo) (k : PoolId),
    Takes s p Code.take e → (s.member p).inbound.chosen = some (d, cl) → tokenHandle d.token = h →
    (s.record h).verifies = true → (s.record h).state = .inUse k → (s.record h).hold p ≠ 7 →
    ∃ t, exec (.take p) s = .next t
      ∧ Becomes s t
          (record := changeAt s.record h
            { (s.record h).setHold p ((s.record h).hold p + 1) with
              transit := (s.record h).transit - 1 })
          (pool := if (s.record h).hold p = 0 then
              changeAt s.pool k ((s.pool k).adjustCharge h p (· + 1)) else s.pool)
          (member := changeAt s.member p { s.member p with inbound := (s.member p).inbound.tail })
          (window := changeAt s.window p ((s.window p).dequeued.posted e .ok
            { res1 := d.token, res2 := deliveryWord d cl ((s.record h).hold p + 1)
              res3 := (s.record h).length, res4 := (s.record h).tag }))
          (lastGranted := p)

/-- REFUSE of a SENT delivery whose sender is ONLINE with room (R80, R82): it joins the sender's queue at the
tail of its class, RETURNED and with the refusing port as its sender. -/
def Obligations.RefuseReturnsTheDelivery : Prop :=
  ∀ (s : State) (p x : Port) (e : Entry) (w : Word) (cl : DeliveryClass),
    Takes s p Code.refuse e → (s.member p).inbound.chosen = some (⟨w, x, .sent⟩, cl) →
    (s.record (tokenHandle w)).verifies = true → (s.member x).membership = .online →
    (s.member x).inbound.size < 32 →
    let left := changeAt s.member p { s.member p with inbound := (s.member p).inbound.tail }
    ∃ t, exec (.refuse p) s = .next t
      ∧ Becomes s t
          (member := changeAt left x
            { left x with inbound := (left x).inbound.join ⟨w, p, .returned⟩ cl })
          (window := changeAt s.window p ((s.window p).dequeued.posted e .ok
            { res1 := w, res2 := deliveryWord ⟨w, x, .sent⟩ cl 0 }))
          (lastGranted := p)

/-- REFUSE that drops its delivery (R70, R81, R82): RETURNED, or its sender not ONLINE, or the sender's queue
full. -/
def Obligations.RefuseDropsTheDelivery : Prop :=
  ∀ (s : State) (p : Port) (e : Entry) (d : Delivery) (cl : DeliveryClass) (h : HandleNo),
    Takes s p Code.refuse e → (s.member p).inbound.chosen = some (d, cl) → tokenHandle d.token = h →
    (s.record h).verifies = true →
    (d.kind = .returned ∨ (s.member d.sender).membership ≠ .online
      ∨ 32 ≤ (s.member d.sender).inbound.size) →
    ∃ a b t how, exec (.refuse p) s = .next t
      ∧ Becomes s a
          (record := changeAt s.record h { s.record h with transit := (s.record h).transit - 1 })
          (member := changeAt s.member p { s.member p with inbound := (s.member p).inbound.tail })
          (window := changeAt s.window p (s.window p).dequeued)
          (lastGranted := p)
      ∧ DisposesIfDone a b h how
      ∧ Answered b t p e .dropped
          { res1 := d.token, res2 := deliveryWord d cl 0, res3 := how.code, res4 := how.waiter }

/-! ### Pools -/

/-- CREATE that passes its checks (R27): the range becomes FREE with each generation as it was, and the pool
record is the one R27 gives, the range on its stack with the lowest number on top. -/
def Obligations.CreateConfiguresThePool : Prop :=
  ∀ (s : State) (p : Port) (e : Entry) (k : PoolId) (first count : Nat),
    Takes s p Code.create e → HoldsLease s p → e.arg0.toNat = k.val →
    e.arg1.toNat = first → e.arg2.toNat = count → 1 ≤ count → count ≤ 4096 → first + count ≤ 4096 →
    (s.pool k).state = .unconfigured →
    (∀ h, first ≤ h → h < first + count →
      (s.record h).verifies = true ∧ (s.record h).state = .unassigned) →
    ∃ t, exec (.create p) s = .next t
      ∧ Becomes s t
          (record := fun h => if first ≤ h ∧ h < first + count then
              HandleRec.blank (.free k) (s.record h).gen else s.record h)
          (pool := changeAt s.pool k
            { PoolRec.unconfigured with
              state := .active, first := first, count := count, stack := List.range' first count
              quota := Vector.replicate 4 count, charge := Vector.replicate 4 0 })
          (window := changeAt s.window p ((s.window p).dequeued.posted e .ok {}))
          (lastGranted := p)

/-- QUOTA (R28). -/
def Obligations.QuotaIsReplaced : Prop :=
  ∀ (s : State) (p : Port) (e : Entry), Takes s p Code.quota e →
    (16 ≤ e.arg0.toNat ∨ 4 ≤ e.arg1.toNat ∨ 4096 < e.arg2.toNat →
      AnswersOnly (.quota p) s p e .badArg {})
    ∧ ∀ (k : PoolId) (x : Port), e.arg0.toNat = k.val → e.arg1.toNat = x.val → e.arg2.toNat ≤ 4096 →
      (¬ HoldsLease s p → AnswersOnly (.quota p) s p e .noLease {})
      ∧ (HoldsLease s p → (s.pool k).state = .unconfigured → AnswersOnly (.quota p) s p e .noPool {})
      ∧ (HoldsLease s p → (s.pool k).state ≠ .unconfigured →
          ∃ t, exec (.quota p) s = .next t
            ∧ Becomes s t
                (pool := changeAt s.pool k
                  { s.pool k with quota := (s.pool k).quota.set x.val e.arg2.toNat x.isLt })
                (window := changeAt s.window p ((s.window p).dequeued.posted e .ok
                  { res1 := word (s.pool k).charge[x], res2 := word (s.pool k).quota[x] }))
                (lastGranted := p))

/-- POOLSTAT (R29): flag A selects the page, and a pool in any state is reported. -/
def Obligations.PoolstatReports : Prop :=
  ∀ (s : State) (p : Port) (e : Entry), Takes s p Code.poolstat e →
    (16 ≤ e.arg0.toNat → AnswersOnly (.poolstat p) s p e .badArg {})
    ∧ ∀ k : PoolId, e.arg0.toNat = k.val →
      let q := s.pool k
      (e.flagA = false → ∃ w : Word,
        AnswersOnly (.poolstat p) s p e .ok
          { res1 := w, res2 := word q.depth, res3 := word q.charge[p], res4 := word q.quota[p] }
        ∧ w.extractLsb' 0 2
            = (match q.state with
              | .unconfigured => 0#2
              | .active => 1#2
              | .draining => 2#2)
        ∧ w.getLsbD 2 = q.recountNeeded ∧ w.getLsbD 3 = q.recount.isSome
        ∧ w.extractLsb' 4 3 = BitVec.ofNat 3 q.waitList.length ∧ w.extractLsb' 7 9 = 0#9)
      ∧ (e.flagA = true →
        AnswersOnly (.poolstat p) s p e .ok
          { res1 := word q.first, res2 := word q.count, res3 := word q.retired, res4 := 0 })

/-- WATCH (R32, R33): refused, armed, or fired at once. -/
def Obligations.WatchArmsOrFires : Prop :=
  ∀ (s : State) (p : Port) (e : Entry), Takes s p Code.watch e →
    (16 ≤ e.arg0.toNat → AnswersOnly (.watch p) s p e .badArg {})
    ∧ ∀ (k : PoolId) (n : Nat), e.arg0.toNat = k.val → e.arg1.toNat = n →
      ((s.pool k).state = .unconfigured → AnswersOnly (.watch p) s p e .noPool {})
      ∧ ((s.pool k).state = .draining → AnswersOnly (.watch p) s p e .poolDraining {})
      ∧ ((s.pool k).state = .active → n = 0 ∨ (s.pool k).count < n →
          AnswersOnly (.watch p) s p e .badArg {})
      ∧ ((s.pool k).state = .active → 1 ≤ n → n ≤ (s.pool k).count → (s.pool k).depth < n →
          ∃ t, exec (.watch p) s = .next t
            ∧ Becomes s t
                (pool := changeAt s.pool k
                  { s.pool k with watches := (s.pool k).watches.set p.val (some n) p.isLt })
                (window := changeAt s.window p ((s.window p).dequeued.posted e .ok
                  { res1 := 1, res2 := word (s.pool k).depth }))
                (lastGranted := p))
      ∧ ((s.pool k).state = .active → 1 ≤ n → n ≤ (s.pool k).count → n ≤ (s.pool k).depth →
          ∃ t, exec (.watch p) s = .next t
            ∧ Becomes s t
                (pool := changeAt s.pool k
                  { s.pool k with watches := (s.pool k).watches.set p.val none p.isLt })
                (window := changeAt s.window p (((s.window p).dequeued.fired k).posted e .ok
                  { res1 := 2, res2 := word (s.pool k).depth }))
                (lastGranted := p))

/-- UNWATCH (R34). -/
def Obligations.UnwatchDisarms : Prop :=
  ∀ (s : State) (p : Port) (e : Entry),
    (s.offered p = some e → e.code = Code.unwatch → (s.member p).membership = .offline →
      AnswersOnly (.unwatch p) s p e .notJoined {})
    ∧ (Takes s p Code.unwatch e →
      (16 ≤ e.arg0.toNat → AnswersOnly (.unwatch p) s p e .badArg {})
      ∧ ∀ k : PoolId, e.arg0.toNat = k.val →
          ∃ t, exec (.unwatch p) s = .next t
            ∧ Becomes s t
                (pool := changeAt s.pool k
                  { s.pool k with watches := (s.pool k).watches.set p.val none p.isLt })
                (window := changeAt s.window p ((s.window p).dequeued.posted e .ok
                  { res1 := bit (s.pool k).watches[p].isSome }))
                (lastGranted := p))

/-- CLOSE of an ACTIVE pool, and its refusals (R36, R37): every waiter's POOL_DRAINING result is posted, oldest
first, the watches are disarmed and the pool drains; where no handle is IN_USE it is torn down at once with no
closer recorded. -/
def Obligations.CloseDrainsOrTearsDown : Prop :=
  ∀ (s : State) (p : Port) (e : Entry), Takes s p Code.close e →
    (16 ≤ e.arg0.toNat → AnswersOnly (.close p) s p e .badArg {})
    ∧ ∀ k : PoolId, e.arg0.toNat = k.val → HoldsLease s p →
      ((s.pool k).state = .unconfigured → AnswersOnly (.close p) s p e .noPool {})
      ∧ ((s.pool k).state = .draining → AnswersOnly (.close p) s p e .poolDraining {})
      ∧ ((s.pool k).state = .active →
        ∃ a b t, exec (.close p) s = .next t
          ∧ Becomes s a
              (pool := changeAt s.pool k
                { s.pool k with
                  state := .draining, waitList := [], watches := Vector.replicate 4 none
                  closer := none })
              (window := fun x =>
                ((s.pool k).waitList.filter fun v => decide (v.port = x)).foldl
                  (fun w v => w.deferred v .poolDraining {})
                  (if x = p then (s.window p).dequeued else s.window x))
              (lastGranted := p)
          ∧ ((s.pool k).depth + (s.pool k).retired = (s.pool k).count →
              TornDown a b k ∧ Answered b t p e .ok { res1 := 2, res2 := 0 })
          ∧ ((s.pool k).depth + (s.pool k).retired ≠ (s.pool k).count →
              Becomes a b (pool := changeAt a.pool k { a.pool k with closer := some p })
              ∧ Answered b t p e .ok
                  { res1 := 1
                    res2 := word ((s.pool k).count - (s.pool k).depth - (s.pool k).retired) }))

/-- RECOUNT, and its refusals (R86). -/
def Obligations.RecountStarts : Prop :=
  ∀ (s : State) (p : Port) (e : Entry), Takes s p Code.recount e →
    (16 ≤ e.arg0.toNat → AnswersOnly (.recount p) s p e .badArg {})
    ∧ ∀ k : PoolId, e.arg0.toNat = k.val →
      (¬ HoldsLease s p → AnswersOnly (.recount p) s p e .noLease {})
      ∧ (HoldsLease s p → (s.pool k).state = .unconfigured → AnswersOnly (.recount p) s p e .noPool {})
      ∧ (HoldsLease s p → (s.pool k).state ≠ .unconfigured → (s.pool k).recount.isSome = true →
          AnswersOnly (.recount p) s p e .recountBusy {})
      ∧ (HoldsLease s p → (s.pool k).state ≠ .unconfigured → (s.pool k).recount = none →
          ∃ t, exec (.recount p) s = .next t
            ∧ Becomes s t
                (pool := changeAt s.pool k
                  { s.pool k with
                    recount := some ⟨Vector.replicate 4 0, (s.pool k).first, some p, false⟩ })
                (window := changeAt s.window p ((s.window p).dequeued.posted e .ok
                  { res1 := word (((s.pool k).count + 15) / 16)
                    res2 := bit (s.pool k).recountNeeded }))
                (lastGranted := p))

/-- RETIRE of a FREE handle (R43): it leaves its place in the stack, the others keeping their order, and its
last token, one generation behind the one it had, is answered STALE afterwards. -/
def Obligations.RetireWithdrawsAFreeHandle : Prop :=
  ∀ (s : State) (p : Port) (e : Entry) (h : HandleNo) (k : PoolId),
    Takes s p Code.retire e → HoldsLease s p → e.arg0.toNat = h → h < 4096 →
    (s.record h).verifies = true → (s.record h).state = .free k →
    ∃ t, exec (.retire p) s = .next t
      ∧ Becomes s t
          (record := changeAt s.record h (.blank (.retired k .admin) ((s.record h).gen + 1)))
          (pool := changeAt s.pool k
            { s.pool k with
              stack := (s.pool k).stack.erase h, retired := (s.pool k).retired + 1 })
          (window := changeAt s.window p ((s.window p).dequeued.posted e .ok { res1 := 1, res2 := 0 }))
          (lastGranted := p)
      ∧ (h ∈ (s.pool k).stack → (t.pool k).depth + (t.pool k).retired
          = (s.pool k).depth + (s.pool k).retired)
      ∧ t.validate (mkToken ((s.record h).gen - 1) h) = .stale

/-- RETIRE of an IN_USE handle (R44): the charge of each holder falls, every reference and every delivery goes,
the handle is RETIRED (ADMIN), and drain completion is tested. -/
def Obligations.RetireWithdrawsAHandleInUse : Prop :=
  ∀ (s : State) (p : Port) (e : Entry) (h : HandleNo) (k : PoolId),
    Takes s p Code.retire e → HoldsLease s p → e.arg0.toNat = h → h < 4096 →
    (s.record h).verifies = true → (s.record h).state = .inUse k →
    ∃ a b t, exec (.retire p) s = .next t
      ∧ Becomes s a
          (record := changeAt s.record h (.blank (.retired k .admin) ((s.record h).gen + 1)))
          (pool := changeAt s.pool k
            { (s.pool k).withoutHolders h (s.record h) with retired := (s.pool k).retired + 1 })
          (member := fun x => { s.member x with inbound := (s.member x).inbound.without h })
          (window := changeAt s.window p (s.window p).dequeued)
          (lastGranted := p)
      ∧ DrainTested a b k
      ∧ Answered b t p e .ok { res1 := 2, res2 := word (s.deliveriesOf h) }

/-- RESTORE of a RETIRED handle of either reason (R45): the retired count falls by 1 and the handle is disposed. -/
def Obligations.RestoreBringsBack : Prop :=
  ∀ (s : State) (p : Port) (e : Entry) (h : HandleNo) (k : PoolId) (reason : RetireReason),
    Takes s p Code.restore e → HoldsLease s p → e.arg0.toNat = h → h < 4096 →
    (s.record h).verifies = true → (s.record h).state = .retired k reason →
    ∃ a b t how, exec (.restore p) s = .next t
      ∧ Becomes s a
          (pool := changeAt s.pool k { s.pool k with retired := (s.pool k).retired - 1 })
          (window := changeAt s.window p (s.window p).dequeued)
          (lastGranted := p)
      ∧ Disposes a b h how
      ∧ Answered b t p e .ok { res1 := how.code, res2 := how.waiter }

/-- The lease check (R139): each of the seven lease commands, past its BAD_ARG checks, is answered NO_LEASE where
the port does not hold the lease. -/
def Obligations.LeaseCommandsNeedTheLease : Prop :=
  ∀ (s : State) (p : Port) (e : Entry) (c : Instr) (code : BitVec 6) (inRange : Prop),
    (c, code, inRange) ∈
      [(Instr.create p, Code.create, e.arg0.toNat < 16 ∧ e.arg2.toNat ≠ 0 ∧ e.arg2.toNat ≤ 4096
          ∧ e.arg1.toNat + e.arg2.toNat ≤ 4096),
        (.quota p, Code.quota, e.arg0.toNat < 16 ∧ e.arg1.toNat < 4 ∧ e.arg2.toNat ≤ 4096),
        (.close p, Code.close, e.arg0.toNat < 16),
        (.recount p, Code.recount, e.arg0.toNat < 16),
        (.retire p, Code.retire, e.arg0.toNat < 4096),
        (.restore p, Code.restore, e.arg0.toNat < 4096),
        (.evict p, Code.evict, e.arg0.toNat < 4)] →
    Takes s p code e → inRange → ¬ HoldsLease s p → AnswersOnly c s p e .noLease {}

/-- The rows GRANT, WATCH_FIRE and DRAIN_COMPLETION (R53, R33, R39): where their condition stands, their effect;
where it does not, nothing (log 6: in a run these come about inside other events). -/
def Obligations.InnerRowsActWhereTheirConditionStands : Prop :=
  (∀ (s : State) (h : Fin 4096) (k : PoolId), s.device = .ready →
    (s.record h.val).verifies = true → (s.record h.val).state = .inUse k →
    (s.record h.val).refs = 0 → (s.pool k).waitList ≠ [] →
    ∃ t how, exec (.grant h) s = .next t ∧ Disposes s t h.val how)
  ∧ (∀ (s : State) (h : Fin 4096) (k : PoolId), (s.record h.val).state = .inUse k →
    (s.record h.val).refs ≠ 0 ∨ (s.pool k).waitList = [] → exec (.grant h) s = .next s)
  ∧ (∀ (s : State) (h : Fin 4096),
    (s.record h.val).state.isInUse = false ∨ (s.record h.val).verifies = false ∨ s.device ≠ .ready →
    exec (.grant h) s = .next s)
  ∧ (∀ (s : State) (k : PoolId) (p : Port), (s.pool k).firesAt p (s.pool k).depth = true →
    ∃ t, exec (.watchFire k p) s = .next t
      ∧ Becomes s t
          (pool := changeAt s.pool k
            { s.pool k with watches := (s.pool k).watches.set p.val none p.isLt })
          (window := changeAt s.window p ((s.window p).fired k)))
  ∧ (∀ (s : State) (k : PoolId) (p : Port), (s.pool k).firesAt p (s.pool k).depth = false →
    exec (.watchFire k p) s = .next s)
  ∧ ∀ (s : State) (k : PoolId), s.device = .ready →
    ∃ t, exec (.drainCompletion k) s = .next t ∧ DrainTested s t k

/-- The refusals of ALLOCATE (R46 steps 2 to 5), CREATE (R26 steps 2, 4 and 5), RETIRE and RESTORE (R42 steps 2
and 5), EVICT (R132 steps 2, 4 and 5), SEND after NOT_HOLDER (R71 steps 4 to 7), and TAKE and REFUSE (R76 step 2,
R78, R79 step 2): each is answered in the order its rule lists, and changes nothing else. NO_LEASE, NOT_JOINED,
CHECK_FAULT and the answers to tokens have statements of their own. -/
def Obligations.CommandsRefuseInTheirOrder : Prop :=
  (∀ (s : State) (p : Port) (e : Entry), Takes s p Code.allocate e →
      (16 ≤ e.arg0.toNat → AnswersOnly (.allocate p) s p e .badArg {})
      ∧ ∀ k : PoolId, e.arg0.toNat = k.val →
        ((s.pool k).state = .unconfigured → AnswersOnly (.allocate p) s p e .noPool {})
        ∧ ((s.pool k).state = .draining → AnswersOnly (.allocate p) s p e .poolDraining {})
        ∧ ((s.pool k).state = .active → (s.pool k).quota[p] ≤ (s.pool k).charge[p] →
            AnswersOnly (.allocate p) s p e .quota
              { res1 := word (s.pool k).charge[p], res2 := word (s.pool k).quota[p] }))
  ∧ (∀ (s : State) (p : Port) (e : Entry), Takes s p Code.create e →
      (16 ≤ e.arg0.toNat ∨ e.arg2.toNat = 0 ∨ 4096 < e.arg2.toNat
          ∨ 4096 < e.arg1.toNat + e.arg2.toNat →
        AnswersOnly (.create p) s p e .badArg {})
      ∧ ∀ k : PoolId, e.arg0.toNat = k.val → e.arg2.toNat ≠ 0 → e.arg2.toNat ≤ 4096 →
        e.arg1.toNat + e.arg2.toNat ≤ 4096 → HoldsLease s p →
        ((s.pool k).state ≠ .unconfigured → AnswersOnly (.create p) s p e .poolBusy {})
        ∧ ∀ h, (s.pool k).state = .unconfigured → e.arg1.toNat ≤ h → h < e.arg1.toNat + e.arg2.toNat →
            (∀ j, e.arg1.toNat ≤ j → j < h →
              (s.record j).verifies = true ∧ (s.record j).state = .unassigned) →
            (s.record h).verifies = true → (s.record h).state ≠ .unassigned →
            AnswersOnly (.create p) s p e .rangeConflict { res1 := word h })
  ∧ ((∀ (s : State) (p : Port) (e : Entry), Takes s p Code.retire e →
      (4096 ≤ e.arg0.toNat → AnswersOnly (.retire p) s p e .badArg {})
      ∧ ∀ h, e.arg0.toNat = h → h < 4096 → HoldsLease s p → (s.record h).verifies = true →
        ((s.record h).state = .unassigned → AnswersOnly (.retire p) s p e .noPool {})
        ∧ (∀ k reason, (s.record h).state = .retired k reason →
            AnswersOnly (.retire p) s p e .alreadyRetired {}))
    ∧ ∀ (s : State) (p : Port) (e : Entry), Takes s p Code.restore e →
      (4096 ≤ e.arg0.toNat → AnswersOnly (.restore p) s p e .badArg {})
      ∧ ∀ h, e.arg0.toNat = h → h < 4096 → HoldsLease s p → (s.record h).verifies = true →
        (∀ k reason, (s.record h).state ≠ .retired k reason) →
        AnswersOnly (.restore p) s p e .notRetired {})
  ∧ (∀ (s : State) (p : Port) (e : Entry), Takes s p Code.evict e →
      (4 ≤ e.arg0.toNat → AnswersOnly (.evict p) s p e .badArg {})
      ∧ ∀ x : Port, e.arg0.toNat = x.val → HoldsLease s p →
        (x = p → AnswersOnly (.evict p) s p e .badDest {})
        ∧ (x ≠ p → (s.member x).membership = .offline →
            AnswersOnly (.evict p) s p e .notOnline { res1 := 0 })
        ∧ ∀ n, x ≠ p → (s.member x).membership = .reclaiming n →
            AnswersOnly (.evict p) s p e .notOnline { res1 := 2 })
  ∧ (∀ (s : State) (p : Port) (e : Entry) (h : HandleNo) (k : PoolId),
      Takes s p Code.send e → ValidToken s e.arg0 h k → (s.record h).hold p ≠ 0 →
      (4 ≤ e.arg1.toNat → AnswersOnly (.send p) s p e .badDest {})
      ∧ ∀ x : Port, e.arg1.toNat = x.val →
        (x = p → AnswersOnly (.send p) s p e .badDest {})
        ∧ (x ≠ p → (s.member x).membership ≠ .online → AnswersOnly (.send p) s p e .destOffline {})
        ∧ (x ≠ p → (s.member x).membership = .online → 32 ≤ (s.member x).inbound.size →
            AnswersOnly (.send p) s p e .destFull {})
        ∧ (x ≠ p → (s.member x).membership = .online → (s.member x).inbound.size < 32 →
            (s.record h).transit = 7 → AnswersOnly (.send p) s p e .transitLimit {}))
  ∧ ((∀ (s : State) (p : Port) (e : Entry), Takes s p Code.take e →
      ((s.member p).inbound = ⟨[], []⟩ → AnswersOnly (.take p) s p e .empty {})
      ∧ ∀ d cl, (s.member p).inbound.chosen = some (d, cl) →
        (s.record (tokenHandle d.token)).verifies = true → (s.record (tokenHandle d.token)).hold p = 7 →
        AnswersOnly (.take p) s p e .holdLimit { res1 := d.token, res2 := deliveryWord d cl 7 })
    ∧ ∀ (s : State) (p : Port) (e : Entry), Takes s p Code.refuse e →
        (s.member p).inbound = ⟨[], []⟩ → AnswersOnly (.refuse p) s p e .empty {})

/-- The charge and the shadow charge move together (R89): a change of a port's hold on handle h between 0 and
non-zero changes its live charge, and its shadow charge exactly where a recount runs with h below its pointer. -/
def Obligations.ShadowChargeFollowsBelowThePointer : Prop :=
  ∀ (q : PoolRec) (h : HandleNo) (p : Port) (f : Nat → Nat),
    (q.adjustCharge h p f).charge = q.charge.set p.val (f q.charge[p]) p.isLt
    ∧ (q.recount = none → (q.adjustCharge h p f).recount = none)
    ∧ (∀ rc, q.recount = some rc → h < rc.pointer → (q.adjustCharge h p f).recount
        = some { rc with shadow := rc.shadow.set p.val (f rc.shadow[p]) p.isLt })
    ∧ (∀ rc, q.recount = some rc → rc.pointer ≤ h → (q.adjustCharge h p f).recount = some rc)
    ∧ { q.adjustCharge h p f with charge := q.charge, recount := q.recount } = q

/-! ### The configuration lease -/

/-- LEASE (R137). -/
def Obligations.LeaseIsGrantedOrRenewed : Prop :=
  (∀ (s : State) (p : Port) (e : Entry), s.offered p = some e → e.code = Code.lease →
    (s.member p).membership = .offline → AnswersOnly (.lease p) s p e .notJoined {})
  ∧ ∀ (s : State) (p : Port) (e : Entry), Takes s p Code.lease e →
    (e.arg0.toNat = 0 ∨ 255 < e.arg0.toNat → AnswersOnly (.lease p) s p e .badArg {})
    ∧ (1 ≤ e.arg0.toNat → e.arg0.toNat ≤ 255 →
      (s.lease = .vacant →
        ∃ t, exec (.lease p) s = .next t
          ∧ Becomes s t (lease := .held p e.arg0.toNat)
              (window := changeAt s.window p
                ((s.window p).dequeued.posted e .ok { res1 := 0, res2 := e.arg0 }))
              (lastGranted := p))
      ∧ (∀ r, s.lease = .held p r →
        ∃ t, exec (.lease p) s = .next t
          ∧ Becomes s t (lease := .held p e.arg0.toNat)
              (window := changeAt s.window p ((s.window p).dequeued.posted e .ok
                { res1 := 1, res2 := e.arg0, res3 := word r }))
              (lastGranted := p))
      ∧ (∀ q r, s.lease = .held q r → q ≠ p →
        AnswersOnly (.lease p) s p e .leaseBusy { res1 := word q.val, res2 := word r }))

/-- UNLEASE (R138). -/
def Obligations.UnleaseGivesUpTheLease : Prop :=
  (∀ (s : State) (p : Port) (e : Entry), s.offered p = some e → e.code = Code.unlease →
    (s.member p).membership = .offline → AnswersOnly (.unlease p) s p e .notJoined {})
  ∧ ∀ (s : State) (p : Port) (e : Entry), Takes s p Code.unlease e →
    (∀ r, s.lease = .held p r →
      ∃ t, exec (.unlease p) s = .next t
        ∧ Becomes s t (lease := .vacant)
            (window := changeAt s.window p ((s.window p).dequeued.posted e .ok { res1 := word r }))
            (lastGranted := p))
    ∧ (s.lease = .vacant → AnswersOnly (.unlease p) s p e .notLeaseHolder { res1 := 0, res2 := 0 })
    ∧ (∀ q r, s.lease = .held q r → q ≠ p →
      AnswersOnly (.unlease p) s p e .notLeaseHolder { res1 := 1, res2 := word q.val })

/-- The millisecond tick (R136), and the row LEASE_EXPIRY for the tick that finds remaining 1 (log 5). The divider
stands at its start at a tick (R148), and no tick is delivered while RST_N is asserted (log 21). -/
def Obligations.TickCountsTheLeaseDown : Prop :=
  (∀ s : State, s.rstAsserted = true →
    exec .millisecondTick s = .next s ∧ exec .leaseExpiry s = .next s)
  ∧ (∀ s : State, s.rstAsserted = false → s.divider = 0 →
    (s.lease = .vacant → exec .millisecondTick s = .next s ∧ exec .leaseExpiry s = .next s)
    ∧ (∀ p r, s.lease = .held p r → 2 ≤ r → exec .leaseExpiry s = .next s
        ∧ ∃ t, exec .millisecondTick s = .next t ∧ Becomes s t (lease := .held p (r - 1)))
    ∧ (∀ p, s.lease = .held p 1 → exec .leaseExpiry s = exec .millisecondTick s
        ∧ ∃ t, exec .millisecondTick s = .next t
            ∧ Becomes s t (lease := .vacant)
                (window := changeAt s.window p ((s.window p).raised .lease))))
  ∧ ∀ (s t : State), s.rstAsserted = false → exec .millisecondTick s = .next t → t.divider = 0

/-! ### The window -/

/-- A CMD write (R96, R97): the entry with the code, tag, flags and arguments of the moment joins the queue's
tail, or the write is discarded with OVERRUN. -/
def Obligations.CommandPostQueuesOrOverruns : Prop :=
  ∀ (s : State) (p : Port) (v : Word), s.rstAsserted = false → (s.window p).resetAsserted = false →
    (s.device = .ready → (∀ n, (s.member p).membership ≠ .reclaiming n) →
        (s.window p).queue.length < 4 →
      ∃ t, exec (.commandPost p v) s = .next t
        ∧ Becomes s t (window := changeAt s.window p
            { s.window p with
              queue := (s.window p).queue
                ++ [⟨v.extractLsb' 0 6, v.extractLsb' 6 4, v.getLsbD 10, v.getLsbD 11,
                    (s.window p).arg0, (s.window p).arg1, (s.window p).arg2⟩] }))
    ∧ (s.device ≠ .ready ∨ (∃ n, (s.member p).membership = .reclaiming n)
        ∨ 4 ≤ (s.window p).queue.length →
      ∃ t, exec (.commandPost p v) s = .next t
        ∧ Becomes s t (window := changeAt s.window p ((s.window p).raised .overrun)))

/-- Writes to ATTN, ATTNEN, RESPOP and to the locations without behaviour of their own (R94, R95, R104, R108,
R109, R150). -/
def Obligations.WindowWritesAct : Prop :=
  ∀ (s : State) (p : Port) (v : Word), s.rstAsserted = false → (s.window p).resetAsserted = false →
    (∃ t w, exec (.attnWrite p v) s = .next t ∧ Becomes s t (window := changeAt s.window p w)
      ∧ w = { s.window p with sticky := w.sticky }
      ∧ w.sticky.watch = ((s.window p).sticky.watch && !v.getLsbD 2)
      ∧ w.sticky.pool = ((s.window p).sticky.pool && !v.getLsbD 3)
      ∧ w.sticky.lease = ((s.window p).sticky.lease && !v.getLsbD 4)
      ∧ w.sticky.peer = ((s.window p).sticky.peer && !v.getLsbD 5)
      ∧ w.sticky.fault = ((s.window p).sticky.fault && !v.getLsbD 6)
      ∧ w.sticky.overrun = ((s.window p).sticky.overrun && !v.getLsbD 7))
    ∧ (∃ t, exec (.attnenWrite p v) s = .next t
      ∧ Becomes s t (window := changeAt s.window p
          { s.window p with enables := v.extractLsb' 0 8 }))
    ∧ (∃ t, exec (.respop p v) s = .next t
      ∧ Becomes s t (window := changeAt s.window p
          { s.window p with results := (s.window p).results.drop 1 }))
    ∧ (∃ t, exec (.registerWrite p 3 v) s = .next t
      ∧ Becomes s t (window := changeAt s.window p { s.window p with arg0 := v }))
    ∧ (∃ t, exec (.registerWrite p 4 v) s = .next t
      ∧ Becomes s t (window := changeAt s.window p { s.window p with arg1 := v }))
    ∧ (∃ t, exec (.registerWrite p 5 v) s = .next t
      ∧ Becomes s t (window := changeAt s.window p { s.window p with arg2 := v }))
    ∧ ∀ off ∈ [0#4, 7, 8, 9, 10, 11, 13, 14, 15], exec (.registerWrite p off v) s = .next s

/-- A read of WATCHSET captures the set and empties it; the WATCH cause stays (R35, R111, R149). -/
def Obligations.WatchsetReadEmptiesTheSet : Prop :=
  ∀ (s : State) (p : Port), s.rstAsserted = false → (s.window p).resetAsserted = false →
    s.windowRead p 0xD = (s.window p).watchFired
    ∧ ∃ t, exec (.watchsetRead p) s = .next (t.capture p (s.window p).watchFired)
      ∧ Becomes s t (window := changeAt s.window p { s.window p with watchFired := 0 })

/-- What a read of each of the sixteen locations returns (R94, R103, R110, R111, R150, Tables 10-2 to 10-4). -/
def Obligations.WindowReadsReport : Prop :=
  ∀ (s : State) (p : Port), s.rstAsserted = false → (s.window p).resetAsserted = false →
    (s.windowRead p 0).extractLsb' 0 2
        = (match (s.member p).membership with
          | .offline => 0#2
          | .online => 1#2
          | .reclaiming _ => 2#2)
    ∧ (s.windowRead p 0).getLsbD 2 = decide (s.device = .ready)
    ∧ (s.windowRead p 0).getLsbD 3 = (s.member p).evicted
    ∧ (s.windowRead p 0).extractLsb' 4 3 = BitVec.ofNat 3 (s.window p).queue.length
    ∧ (s.windowRead p 0).extractLsb' 7 4 = BitVec.ofNat 4 (s.window p).results.length
    ∧ (s.windowRead p 0).extractLsb' 11 1 = BitVec.ofNat 1 (s.window p).reserved
    ∧ (s.windowRead p 0).getLsbD 12 = (s.waitEntryOf p).isSome
    ∧ (s.windowRead p 0).extractLsb' 13 3 = 0#3
    ∧ (s.windowRead p 1).getLsbD 0 = !(s.window p).results.isEmpty
    ∧ (s.windowRead p 1).getLsbD 1 = decide (0 < (s.member p).inbound.size)
    ∧ (s.windowRead p 1).getLsbD 2 = (s.window p).sticky.watch
    ∧ (s.windowRead p 1).getLsbD 3 = (s.window p).sticky.pool
    ∧ (s.windowRead p 1).getLsbD 4 = (s.window p).sticky.lease
    ∧ (s.windowRead p 1).getLsbD 5 = (s.window p).sticky.peer
    ∧ (s.windowRead p 1).getLsbD 6 = (s.window p).sticky.fault
    ∧ (s.windowRead p 1).getLsbD 7 = (s.window p).sticky.overrun
    ∧ (s.windowRead p 1).extractLsb' 8 8 = 0#8
    ∧ s.windowRead p 2 = (s.window p).enables.setWidth 16
    ∧ s.windowRead p 3 = (s.window p).arg0 ∧ s.windowRead p 4 = (s.window p).arg1
    ∧ s.windowRead p 5 = (s.window p).arg2 ∧ s.windowRead p 6 = 0
    ∧ ((s.window p).results = [] → s.windowRead p 7 = 0xFFFF ∧ s.windowRead p 8 = 0
        ∧ s.windowRead p 9 = 0 ∧ s.windowRead p 10 = 0 ∧ s.windowRead p 11 = 0)
    ∧ (∀ r rest, (s.window p).results = r :: rest →
        s.windowRead p 7 ≠ 0xFFFF
        ∧ (s.windowRead p 7).extractLsb' 0 6 = r.code ∧ (s.windowRead p 7).extractLsb' 6 4 = r.tag
        ∧ (s.windowRead p 7).extractLsb' 10 6 = r.status.code
        ∧ s.windowRead p 8 = r.data.res1 ∧ s.windowRead p 9 = r.data.res2
        ∧ s.windowRead p 10 = r.data.res3 ∧ s.windowRead p 11 = r.data.res4)
    ∧ s.windowRead p 12 = word (s.window p).results.length
    ∧ s.windowRead p 13 = (s.window p).watchFired
    ∧ (s.windowRead p 14).extractLsb' 0 6 = BitVec.ofNat 6 (s.member p).inbound.urgent.length
    ∧ (s.windowRead p 14).extractLsb' 6 2 = 0#2
    ∧ (s.windowRead p 14).extractLsb' 8 6 = BitVec.ofNat 6 (s.member p).inbound.normal.length
    ∧ (s.windowRead p 14).extractLsb' 14 2 = 0#2
    ∧ s.windowRead p 15 = 0x4160 + word p.val
    ∧ (s.attention p = true ↔ s.windowRead p 1 &&& s.windowRead p 2 ≠ 0)

/-- The window side of a port reset clears the window, and the release lets accesses act again; while PxRST_N or
RST_N is asserted the port ignores every write, and every read returns 0000h, a WATCHSET read without emptying
the set (R94, R112, R144, log 14). That a second arrival within one assertion clears the window again is the
model's choice (log 21). -/
def Obligations.PortResetClearsTheWindow : Prop :=
  (∀ (s : State) (p : Port), ∃ t, exec (.portResetWindow p) s = .next t
    ∧ Becomes s t (window := changeAt s.window p
        { s.window p with
          arg0 := 0, arg1 := 0, arg2 := 0, queue := [], results := [], sticky := .clear,
          enables := 0, watchFired := 0, resetAsserted := true }))
  ∧ (∀ (s : State) (p : Port), ∃ t, exec (.portResetRelease p) s = .next t
    ∧ Becomes s t (window := changeAt s.window p { s.window p with resetAsserted := false }))
  ∧ ∀ (s : State) (p : Port) (v : Word) (off : BitVec 4),
      s.rstAsserted = true ∨ (s.window p).resetAsserted = true →
      exec (.commandPost p v) s = .next s ∧ exec (.attnWrite p v) s = .next s
        ∧ exec (.attnenWrite p v) s = .next s ∧ exec (.respop p v) s = .next s
        ∧ exec (.registerWrite p off v) s = .next s ∧ s.windowRead p off = 0
        ∧ exec (.watchsetRead p) s = .next (s.capture p 0)

/-! ### Start-up -/

/-- The assertion of RST_N returns every block to its reset values (R144); the level of PxRST_N and the buses with
the words captured for their reads stay as they were (the model's choice, log 9 and log 10). Its release changes
the level alone. -/
def Obligations.DeviceResetReturnsEveryBlock : Prop :=
  (∀ s : State, ∃ t, exec .deviceReset s = .next t
    ∧ t.device = .initializing 0 ∧ t.rstAsserted = true ∧ t.divider = 0
    ∧ t.lease = .vacant ∧ t.lastGranted = 0 ∧ t.faultCount = 0
    ∧ (∀ k, t.pool k = .unconfigured)
    ∧ (∀ q, t.member q = ⟨.offline, false, ⟨[], []⟩⟩)
    ∧ (∀ q, t.window q = ⟨0, 0, 0, [], [], 0, .clear, 0, 0, (s.window q).resetAsserted⟩)
    ∧ t.buses = s.buses ∧ t.pending = s.pending)
  ∧ ∀ s : State, exec .deviceResetRelease s = .next { s with rstAsserted := false }

/-- The initialization controller writes the next record, and the event that writes handle 4095 makes the device
READY (R145); DEVICE_READY is that event alone (log 5). Nothing happens while RST_N is asserted or once READY. -/
def Obligations.InitializationWritesEveryRecord : Prop :=
  (∀ (s : State) (n : Nat), s.device = .initializing n → s.rstAsserted = false →
    ∃ t, exec .initializationWrite s = .next t
      ∧ Table.get n t.handles = .blank .unassigned 0
      ∧ (∀ h, h ≠ n → Table.get h t.handles = Table.get h s.handles)
      ∧ (n < 4095 → t.device = .initializing (n + 1))
      ∧ (4095 ≤ n → t.device = .ready)
      ∧ { t with handles := s.handles, device := s.device } = s
      ∧ (n < 4095 → exec .deviceReady s = .next s)
      ∧ (4095 ≤ n → exec .deviceReady s = .next t))
  ∧ (∀ s : State, s.rstAsserted = true ∨ s.device = .ready →
    exec .initializationWrite s = .next s ∧ exec .deviceReady s = .next s)
  ∧ ∀ (c : Instr) (s t : State), s.device = .ready → exec c s = .next t → c ≠ .deviceReset →
    t.device = .ready

/-! ### Sweeps -/

/-- A reclaim step (R125, R126): sixteen handles from the pointer, in increasing number; then the pointer advances
by 16, or the sweep completes at handle 4095 and the port is OFFLINE. SWEEP_COMPLETION is the completing step
alone (log 5), and where no sweep runs neither changes anything (log 3). -/
def Obligations.ReclaimStepSweepsSixteenHandles : Prop :=
  (∀ (s : State) (p : Port) (n : Nat), s.device = .ready → (s.member p).membership = .reclaiming n →
    ∃ a t, exec (.reclaimStep p) s = .next t
      ∧ Sweeps p (List.range' n 16) s a
      ∧ Becomes a t (member := changeAt a.member p
          { a.member p with
            membership := if n + 16 < 4096 then .reclaiming (n + 16) else .offline })
      ∧ (n + 16 < 4096 → exec (.sweepCompletion p) s = .next s)
      ∧ (4096 ≤ n + 16 → exec (.sweepCompletion p) s = .next t))
  ∧ ∀ (s : State) (p : Port), (∀ n, (s.member p).membership ≠ .reclaiming n) →
    exec (.reclaimStep p) s = .next s ∧ exec (.sweepCompletion p) s = .next s

/-- A recount step (R87, R88, R91): the next slice of at most sixteen handles is counted; then the pointer
advances, or the recount completes at the end of the range: the charges become the shadow charges, recount-needed
is cleared unless the recount was disturbed, the record goes, and POOL is set at the requester if one is recorded.
A teardown within the step ends the recount without effect. RECOUNT_COMPLETION is the completing step alone
(log 5), and where no recount runs neither changes anything (log 3). -/
def Obligations.RecountStepCountsItsSlice : Prop :=
  (∀ (s : State) (k : PoolId) (rc : RecountRec) (stop last : Nat), s.device = .ready →
    (s.pool k).recount = some rc →
    last = (s.pool k).first + (s.pool k).count → stop = min (rc.pointer + 16) last →
    ∃ a t, exec (.recountStep k) s = .next t
      ∧ Counts k (List.range' rc.pointer (stop - rc.pointer)) s a
      ∧ ((a.pool k).recount = none → t = a)
      ∧ (∀ rc', (a.pool k).recount = some rc' → stop ≠ last →
          Becomes a t (pool := changeAt a.pool k
            { a.pool k with recount := some { rc' with pointer := stop } }))
      ∧ (∀ rc', (a.pool k).recount = some rc' → stop = last →
          Becomes a t
            (pool := changeAt a.pool k
              { a.pool k with
                charge := rc'.shadow
                recountNeeded := rc'.disturbed && (a.pool k).recountNeeded
                recount := none })
            (window := fun x =>
              if rc'.requester = some x then (a.window x).raised .pool else a.window x))
      ∧ (stop ≠ last → exec (.recountCompletion k) s = .next s)
      ∧ (stop = last → exec (.recountCompletion k) s = .next t))
  ∧ ∀ (s : State) (k : PoolId), (s.pool k).recount = none →
    exec (.recountStep k) s = .next s ∧ exec (.recountCompletion k) s = .next s

/-! ### Formats -/

/-- Tokens and result headers keep their fields (R4, R152): a token gives back its generation and its handle, and
no result's header is FFFFh. -/
def Obligations.WordsKeepTheirFields : Prop :=
  (∀ (g : BitVec 4) (h : HandleNo), h < 4096 →
    tokenGen (mkToken g h) = g ∧ tokenHandle (mkToken g h) = h)
  ∧ (∀ w : Word, mkToken (tokenGen w) (tokenHandle w) = w)
  ∧ ∀ r : Result, r.header ≠ 0xFFFF ∧ r.header &&& 0x03FF = (r.tag ++ r.code).setWidth 16

/-- The port bus (R149, R150). A read arrives exactly where read enable begins with PxWR_N high, and a write
exactly where a write enable ends during which PxRD_N was never low. An arrival is the event of its row; a read
of a location without a row captures its word and changes nothing else. The word a read drives is the one of its
arrival, until read enable ends and while PxWR_N is high, whatever happens meanwhile. A write that ends where a
read begins comes first (log 18: the model's choice). -/
def Obligations.BusAccessesArriveAndReadsAreHeld : Prop :=
  (∀ (b : BusPhase) (now : BusPins),
    (∀ off, BusAccess.read off ∈ b.arrivals now ↔
      now.readEnable = true ∧ b.before.readEnable = false ∧ now.wr = false ∧ off = now.addr)
    ∧ (∀ off v, BusAccess.write off v ∈ b.arrivals now ↔
      b.before.writeEnable = true ∧ now.writeEnable = false ∧ b.writeSpoilt = false
        ∧ off = b.before.addr ∧ v = b.before.data)
    ∧ ((b.next now).writeSpoilt = true ↔ now.writeEnable = true
        ∧ (now.rd = true ∨ (b.before.writeEnable = true ∧ b.writeSpoilt = true)))
    ∧ ((b.next now).readArrived = true ↔ now.readEnable = true
        ∧ ((b.before.readEnable = false ∧ now.wr = false)
          ∨ (b.before.readEnable = true ∧ b.readArrived = true)))
    ∧ (b.next now).before = now ∧ (b.next now).readData = b.readData)
  ∧ (∀ (s : State) (p : Port) (a : BusAccess) (c : Instr), a.command p = some c →
    exec c s = .next (s.accessArrives p a))
  ∧ (∀ (s : State) (p : Port) (off : BitVec 4), off ≠ 0xD →
    s.accessArrives p (.read off) = s.capture p (s.windowRead p off))
  ∧ (∀ (s : State) (p : Port) (now : BusPins),
    ((s.bus p).readBegins now = true → (s.busMoment p now).drivenWord p
      = some ((if (s.bus p).writeEnds now then
          s.accessArrives p (.write (s.bus p).before.addr (s.bus p).before.data) else s).windowRead p now.addr))
    ∧ ((s.bus p).readBegins now = false → ((s.busMoment p now).bus p).readData = (s.bus p).readData)
    ∧ ((s.bus p).arrivals now = [] → s.busMoment p now = s.updBus p fun b => b.next now)
    ∧ ∀ q, q ≠ p → (s.busMoment p now).bus q = s.bus q)
  ∧ (∀ (s : State) (p : Port), s.drivenWord p
    = if (s.bus p).before.readEnable = true ∧ (s.bus p).readArrived = true ∧ (s.bus p).before.wr = false then
        some (s.bus p).readData
      else none)
  ∧ ∀ (c : Instr) (s t : State) (p : Port), exec c s = .next t →
    t.bus p = { s.bus p with readData := (t.bus p).readData }
      ∧ (c ≠ .watchsetRead p → t.bus p = s.bus p)

/-! ### Invariants -/

/-- The handle table keeps its canonical form. -/
def Obligations.TableStaysCanonical : Prop :=
  ∀ s t : State, TableInv s → step s = .next t → TableInv t

/-- The queues stay within their capacities, and a port has a reserved slot exactly when it has its one wait-list
entry (R50, R66, R98, R102, R105). -/
def Obligations.CapacitiesAreKept : Prop :=
  ∀ s t : State, CapacityInv s → step s = .next t → CapacityInv t

/-- What the part keeps for a port it keeps for an ONLINE port only (R66, R117, R135). -/
def Obligations.OnlyOnlinePortsAreServed : Prop :=
  ∀ s t : State, MembershipInv s → step s = .next t → MembershipInv t

/-- Records, pools, stacks and inbound queues go on agreeing with one another (R2, R21, R24, R27, R69). -/
def Obligations.RecordsAndPoolsAgree : Prop :=
  ∀ s t : State, StructureInv s → step s = .next t → StructureInv t

/-- The charges go on counting the holdings, and the shadow charges the holdings below the pointer (R22, R89). -/
def Obligations.ChargesCountTheHoldings : Prop :=
  ∀ s t : State, StructureInv s → ChargeInv s → step s = .next t → ChargeInv t

/-- A hold that the sweep has set to 0 stays 0 until the port joins again (R117). -/
def Obligations.SweptPortsHoldNothing : Prop :=
  ∀ s t : State, StructureInv s → MembershipInv s → SweptInv s → step s = .next t → SweptInv t

/-- The invariants hold at reset. -/
def Obligations.ResetStateMeetsTheInvariants : Prop :=
  TableInv State.reset ∧ CapacityInv State.reset ∧ MembershipInv State.reset
    ∧ StructureInv State.reset ∧ ChargeInv State.reset ∧ SweptInv State.reset
end

