-- ==== Sys2Proof/Laws/State.lean ====
section
/-! SUPPORT. What each update of State leaves alone, field by field, and what it changes. Every lemma that holds by
computation is a simp lemma, so that no later proof unfolds a record update. -/

namespace Sys2Proof.Machine

/-! ### updPool -/

@[simp] theorem updPool_device (s : State) (k : PoolId) (f : PoolRec → PoolRec) : (s.updPool k f).device = s.device := rfl
@[simp] theorem updPool_rstAsserted (s : State) (k : PoolId) (f : PoolRec → PoolRec) : (s.updPool k f).rstAsserted = s.rstAsserted := rfl
@[simp] theorem updPool_era (s : State) (k : PoolId) (f : PoolRec → PoolRec) : (s.updPool k f).era = s.era := rfl
@[simp] theorem updPool_divider (s : State) (k : PoolId) (f : PoolRec → PoolRec) : (s.updPool k f).divider = s.divider := rfl
@[simp] theorem updPool_lease (s : State) (k : PoolId) (f : PoolRec → PoolRec) : (s.updPool k f).lease = s.lease := rfl
@[simp] theorem updPool_lastGranted (s : State) (k : PoolId) (f : PoolRec → PoolRec) : (s.updPool k f).lastGranted = s.lastGranted := rfl
@[simp] theorem updPool_faultCount (s : State) (k : PoolId) (f : PoolRec → PoolRec) : (s.updPool k f).faultCount = s.faultCount := rfl
@[simp] theorem updPool_handles (s : State) (k : PoolId) (f : PoolRec → PoolRec) : (s.updPool k f).handles = s.handles := rfl
@[simp] theorem updPool_members (s : State) (k : PoolId) (f : PoolRec → PoolRec) : (s.updPool k f).members = s.members := rfl
@[simp] theorem updPool_windows (s : State) (k : PoolId) (f : PoolRec → PoolRec) : (s.updPool k f).windows = s.windows := rfl
@[simp] theorem updPool_buses (s : State) (k : PoolId) (f : PoolRec → PoolRec) : (s.updPool k f).buses = s.buses := rfl
@[simp] theorem updPool_pending (s : State) (k : PoolId) (f : PoolRec → PoolRec) : (s.updPool k f).pending = s.pending := rfl
@[simp] theorem updPool_member (s : State) (k : PoolId) (f : PoolRec → PoolRec) (q : Port) : (s.updPool k f).member q = s.member q := rfl
@[simp] theorem updPool_window (s : State) (k : PoolId) (f : PoolRec → PoolRec) (q : Port) : (s.updPool k f).window q = s.window q := rfl
@[simp] theorem updPool_bus (s : State) (k : PoolId) (f : PoolRec → PoolRec) (q : Port) : (s.updPool k f).bus q = s.bus q := rfl
@[simp] theorem updPool_record (s : State) (k : PoolId) (f : PoolRec → PoolRec) (j : HandleNo) : (s.updPool k f).record j = s.record j := rfl
@[simp] theorem updPool_isOnline (s : State) (k : PoolId) (f : PoolRec → PoolRec) (q : Port) : (s.updPool k f).isOnline q = s.isOnline q := rfl
@[simp] theorem updPool_holdsLease (s : State) (k : PoolId) (f : PoolRec → PoolRec) (q : Port) : (s.updPool k f).holdsLease q = s.holdsLease q := rfl

/-! ### updMember -/

@[simp] theorem updMember_device (s : State) (p : Port) (f : Member → Member) : (s.updMember p f).device = s.device := rfl
@[simp] theorem updMember_rstAsserted (s : State) (p : Port) (f : Member → Member) : (s.updMember p f).rstAsserted = s.rstAsserted := rfl
@[simp] theorem updMember_era (s : State) (p : Port) (f : Member → Member) : (s.updMember p f).era = s.era := rfl
@[simp] theorem updMember_divider (s : State) (p : Port) (f : Member → Member) : (s.updMember p f).divider = s.divider := rfl
@[simp] theorem updMember_lease (s : State) (p : Port) (f : Member → Member) : (s.updMember p f).lease = s.lease := rfl
@[simp] theorem updMember_lastGranted (s : State) (p : Port) (f : Member → Member) : (s.updMember p f).lastGranted = s.lastGranted := rfl
@[simp] theorem updMember_faultCount (s : State) (p : Port) (f : Member → Member) : (s.updMember p f).faultCount = s.faultCount := rfl
@[simp] theorem updMember_handles (s : State) (p : Port) (f : Member → Member) : (s.updMember p f).handles = s.handles := rfl
@[simp] theorem updMember_pools (s : State) (p : Port) (f : Member → Member) : (s.updMember p f).pools = s.pools := rfl
@[simp] theorem updMember_windows (s : State) (p : Port) (f : Member → Member) : (s.updMember p f).windows = s.windows := rfl
@[simp] theorem updMember_buses (s : State) (p : Port) (f : Member → Member) : (s.updMember p f).buses = s.buses := rfl
@[simp] theorem updMember_pending (s : State) (p : Port) (f : Member → Member) : (s.updMember p f).pending = s.pending := rfl
@[simp] theorem updMember_pool (s : State) (p : Port) (f : Member → Member) (j : PoolId) : (s.updMember p f).pool j = s.pool j := rfl
@[simp] theorem updMember_window (s : State) (p : Port) (f : Member → Member) (q : Port) : (s.updMember p f).window q = s.window q := rfl
@[simp] theorem updMember_bus (s : State) (p : Port) (f : Member → Member) (q : Port) : (s.updMember p f).bus q = s.bus q := rfl
@[simp] theorem updMember_record (s : State) (p : Port) (f : Member → Member) (j : HandleNo) : (s.updMember p f).record j = s.record j := rfl
@[simp] theorem updMember_poolOf (s : State) (p : Port) (f : Member → Member) (j : HandleNo) : (s.updMember p f).poolOf j = s.poolOf j := rfl
@[simp] theorem updMember_waitEntryOf (s : State) (p : Port) (f : Member → Member) (q : Port) : (s.updMember p f).waitEntryOf q = s.waitEntryOf q := rfl
@[simp] theorem updMember_holdsLease (s : State) (p : Port) (f : Member → Member) (q : Port) : (s.updMember p f).holdsLease q = s.holdsLease q := rfl

/-! ### updWindow -/

@[simp] theorem updWindow_device (s : State) (p : Port) (f : Window → Window) : (s.updWindow p f).device = s.device := rfl
@[simp] theorem updWindow_rstAsserted (s : State) (p : Port) (f : Window → Window) : (s.updWindow p f).rstAsserted = s.rstAsserted := rfl
@[simp] theorem updWindow_era (s : State) (p : Port) (f : Window → Window) : (s.updWindow p f).era = s.era := rfl
@[simp] theorem updWindow_divider (s : State) (p : Port) (f : Window → Window) : (s.updWindow p f).divider = s.divider := rfl
@[simp] theorem updWindow_lease (s : State) (p : Port) (f : Window → Window) : (s.updWindow p f).lease = s.lease := rfl
@[simp] theorem updWindow_lastGranted (s : State) (p : Port) (f : Window → Window) : (s.updWindow p f).lastGranted = s.lastGranted := rfl
@[simp] theorem updWindow_faultCount (s : State) (p : Port) (f : Window → Window) : (s.updWindow p f).faultCount = s.faultCount := rfl
@[simp] theorem updWindow_handles (s : State) (p : Port) (f : Window → Window) : (s.updWindow p f).handles = s.handles := rfl
@[simp] theorem updWindow_pools (s : State) (p : Port) (f : Window → Window) : (s.updWindow p f).pools = s.pools := rfl
@[simp] theorem updWindow_members (s : State) (p : Port) (f : Window → Window) : (s.updWindow p f).members = s.members := rfl
@[simp] theorem updWindow_buses (s : State) (p : Port) (f : Window → Window) : (s.updWindow p f).buses = s.buses := rfl
@[simp] theorem updWindow_pending (s : State) (p : Port) (f : Window → Window) : (s.updWindow p f).pending = s.pending := rfl
@[simp] theorem updWindow_pool (s : State) (p : Port) (f : Window → Window) (j : PoolId) : (s.updWindow p f).pool j = s.pool j := rfl
@[simp] theorem updWindow_member (s : State) (p : Port) (f : Window → Window) (q : Port) : (s.updWindow p f).member q = s.member q := rfl
@[simp] theorem updWindow_bus (s : State) (p : Port) (f : Window → Window) (q : Port) : (s.updWindow p f).bus q = s.bus q := rfl
@[simp] theorem updWindow_record (s : State) (p : Port) (f : Window → Window) (j : HandleNo) : (s.updWindow p f).record j = s.record j := rfl
@[simp] theorem updWindow_isOnline (s : State) (p : Port) (f : Window → Window) (q : Port) : (s.updWindow p f).isOnline q = s.isOnline q := rfl
@[simp] theorem updWindow_poolOf (s : State) (p : Port) (f : Window → Window) (j : HandleNo) : (s.updWindow p f).poolOf j = s.poolOf j := rfl
@[simp] theorem updWindow_waitEntryOf (s : State) (p : Port) (f : Window → Window) (q : Port) : (s.updWindow p f).waitEntryOf q = s.waitEntryOf q := rfl
@[simp] theorem updWindow_holdsLease (s : State) (p : Port) (f : Window → Window) (q : Port) : (s.updWindow p f).holdsLease q = s.holdsLease q := rfl

/-! ### updBus -/

@[simp] theorem updBus_device (s : State) (p : Port) (f : BusPhase → BusPhase) : (s.updBus p f).device = s.device := rfl
@[simp] theorem updBus_rstAsserted (s : State) (p : Port) (f : BusPhase → BusPhase) : (s.updBus p f).rstAsserted = s.rstAsserted := rfl
@[simp] theorem updBus_era (s : State) (p : Port) (f : BusPhase → BusPhase) : (s.updBus p f).era = s.era := rfl
@[simp] theorem updBus_divider (s : State) (p : Port) (f : BusPhase → BusPhase) : (s.updBus p f).divider = s.divider := rfl
@[simp] theorem updBus_lease (s : State) (p : Port) (f : BusPhase → BusPhase) : (s.updBus p f).lease = s.lease := rfl
@[simp] theorem updBus_lastGranted (s : State) (p : Port) (f : BusPhase → BusPhase) : (s.updBus p f).lastGranted = s.lastGranted := rfl
@[simp] theorem updBus_faultCount (s : State) (p : Port) (f : BusPhase → BusPhase) : (s.updBus p f).faultCount = s.faultCount := rfl
@[simp] theorem updBus_handles (s : State) (p : Port) (f : BusPhase → BusPhase) : (s.updBus p f).handles = s.handles := rfl
@[simp] theorem updBus_pools (s : State) (p : Port) (f : BusPhase → BusPhase) : (s.updBus p f).pools = s.pools := rfl
@[simp] theorem updBus_members (s : State) (p : Port) (f : BusPhase → BusPhase) : (s.updBus p f).members = s.members := rfl
@[simp] theorem updBus_windows (s : State) (p : Port) (f : BusPhase → BusPhase) : (s.updBus p f).windows = s.windows := rfl
@[simp] theorem updBus_pending (s : State) (p : Port) (f : BusPhase → BusPhase) : (s.updBus p f).pending = s.pending := rfl
@[simp] theorem updBus_pool (s : State) (p : Port) (f : BusPhase → BusPhase) (j : PoolId) : (s.updBus p f).pool j = s.pool j := rfl
@[simp] theorem updBus_member (s : State) (p : Port) (f : BusPhase → BusPhase) (q : Port) : (s.updBus p f).member q = s.member q := rfl
@[simp] theorem updBus_window (s : State) (p : Port) (f : BusPhase → BusPhase) (q : Port) : (s.updBus p f).window q = s.window q := rfl
@[simp] theorem updBus_record (s : State) (p : Port) (f : BusPhase → BusPhase) (j : HandleNo) : (s.updBus p f).record j = s.record j := rfl
@[simp] theorem updBus_isOnline (s : State) (p : Port) (f : BusPhase → BusPhase) (q : Port) : (s.updBus p f).isOnline q = s.isOnline q := rfl
@[simp] theorem updBus_poolOf (s : State) (p : Port) (f : BusPhase → BusPhase) (j : HandleNo) : (s.updBus p f).poolOf j = s.poolOf j := rfl
@[simp] theorem updBus_waitEntryOf (s : State) (p : Port) (f : BusPhase → BusPhase) (q : Port) : (s.updBus p f).waitEntryOf q = s.waitEntryOf q := rfl
@[simp] theorem updBus_holdsLease (s : State) (p : Port) (f : BusPhase → BusPhase) (q : Port) : (s.updBus p f).holdsLease q = s.holdsLease q := rfl

/-! ### capture -/

@[simp] theorem capture_device (s : State) (p : Port) (v : Word) : (s.capture p v).device = s.device := rfl
@[simp] theorem capture_rstAsserted (s : State) (p : Port) (v : Word) : (s.capture p v).rstAsserted = s.rstAsserted := rfl
@[simp] theorem capture_era (s : State) (p : Port) (v : Word) : (s.capture p v).era = s.era := rfl
@[simp] theorem capture_divider (s : State) (p : Port) (v : Word) : (s.capture p v).divider = s.divider := rfl
@[simp] theorem capture_lease (s : State) (p : Port) (v : Word) : (s.capture p v).lease = s.lease := rfl
@[simp] theorem capture_lastGranted (s : State) (p : Port) (v : Word) : (s.capture p v).lastGranted = s.lastGranted := rfl
@[simp] theorem capture_faultCount (s : State) (p : Port) (v : Word) : (s.capture p v).faultCount = s.faultCount := rfl
@[simp] theorem capture_handles (s : State) (p : Port) (v : Word) : (s.capture p v).handles = s.handles := rfl
@[simp] theorem capture_pools (s : State) (p : Port) (v : Word) : (s.capture p v).pools = s.pools := rfl
@[simp] theorem capture_members (s : State) (p : Port) (v : Word) : (s.capture p v).members = s.members := rfl
@[simp] theorem capture_windows (s : State) (p : Port) (v : Word) : (s.capture p v).windows = s.windows := rfl
@[simp] theorem capture_pending (s : State) (p : Port) (v : Word) : (s.capture p v).pending = s.pending := rfl
@[simp] theorem capture_pool (s : State) (p : Port) (v : Word) (j : PoolId) : (s.capture p v).pool j = s.pool j := rfl
@[simp] theorem capture_member (s : State) (p : Port) (v : Word) (q : Port) : (s.capture p v).member q = s.member q := rfl
@[simp] theorem capture_window (s : State) (p : Port) (v : Word) (q : Port) : (s.capture p v).window q = s.window q := rfl
@[simp] theorem capture_record (s : State) (p : Port) (v : Word) (j : HandleNo) : (s.capture p v).record j = s.record j := rfl
@[simp] theorem capture_isOnline (s : State) (p : Port) (v : Word) (q : Port) : (s.capture p v).isOnline q = s.isOnline q := rfl
@[simp] theorem capture_poolOf (s : State) (p : Port) (v : Word) (j : HandleNo) : (s.capture p v).poolOf j = s.poolOf j := rfl
@[simp] theorem capture_waitEntryOf (s : State) (p : Port) (v : Word) (q : Port) : (s.capture p v).waitEntryOf q = s.waitEntryOf q := rfl
@[simp] theorem capture_holdsLease (s : State) (p : Port) (v : Word) (q : Port) : (s.capture p v).holdsLease q = s.holdsLease q := rfl

/-! ### writeRecord -/

@[simp] theorem writeRecord_device (s : State) (h : HandleNo) (r : HandleRec) : (s.writeRecord h r).device = s.device := rfl
@[simp] theorem writeRecord_rstAsserted (s : State) (h : HandleNo) (r : HandleRec) : (s.writeRecord h r).rstAsserted = s.rstAsserted := rfl
@[simp] theorem writeRecord_era (s : State) (h : HandleNo) (r : HandleRec) : (s.writeRecord h r).era = s.era := rfl
@[simp] theorem writeRecord_divider (s : State) (h : HandleNo) (r : HandleRec) : (s.writeRecord h r).divider = s.divider := rfl
@[simp] theorem writeRecord_lease (s : State) (h : HandleNo) (r : HandleRec) : (s.writeRecord h r).lease = s.lease := rfl
@[simp] theorem writeRecord_lastGranted (s : State) (h : HandleNo) (r : HandleRec) : (s.writeRecord h r).lastGranted = s.lastGranted := rfl
@[simp] theorem writeRecord_faultCount (s : State) (h : HandleNo) (r : HandleRec) : (s.writeRecord h r).faultCount = s.faultCount := rfl
@[simp] theorem writeRecord_pools (s : State) (h : HandleNo) (r : HandleRec) : (s.writeRecord h r).pools = s.pools := rfl
@[simp] theorem writeRecord_members (s : State) (h : HandleNo) (r : HandleRec) : (s.writeRecord h r).members = s.members := rfl
@[simp] theorem writeRecord_windows (s : State) (h : HandleNo) (r : HandleRec) : (s.writeRecord h r).windows = s.windows := rfl
@[simp] theorem writeRecord_buses (s : State) (h : HandleNo) (r : HandleRec) : (s.writeRecord h r).buses = s.buses := rfl
@[simp] theorem writeRecord_pending (s : State) (h : HandleNo) (r : HandleRec) : (s.writeRecord h r).pending = s.pending := rfl
@[simp] theorem writeRecord_pool (s : State) (h : HandleNo) (r : HandleRec) (j : PoolId) : (s.writeRecord h r).pool j = s.pool j := rfl
@[simp] theorem writeRecord_member (s : State) (h : HandleNo) (r : HandleRec) (q : Port) : (s.writeRecord h r).member q = s.member q := rfl
@[simp] theorem writeRecord_window (s : State) (h : HandleNo) (r : HandleRec) (q : Port) : (s.writeRecord h r).window q = s.window q := rfl
@[simp] theorem writeRecord_bus (s : State) (h : HandleNo) (r : HandleRec) (q : Port) : (s.writeRecord h r).bus q = s.bus q := rfl
@[simp] theorem writeRecord_isOnline (s : State) (h : HandleNo) (r : HandleRec) (q : Port) : (s.writeRecord h r).isOnline q = s.isOnline q := rfl
@[simp] theorem writeRecord_poolOf (s : State) (h : HandleNo) (r : HandleRec) (j : HandleNo) : (s.writeRecord h r).poolOf j = s.poolOf j := rfl
@[simp] theorem writeRecord_waitEntryOf (s : State) (h : HandleNo) (r : HandleRec) (q : Port) : (s.writeRecord h r).waitEntryOf q = s.waitEntryOf q := rfl
@[simp] theorem writeRecord_holdsLease (s : State) (h : HandleNo) (r : HandleRec) (q : Port) : (s.writeRecord h r).holdsLease q = s.holdsLease q := rfl

/-! ### raise -/

@[simp] theorem raise_device (s : State) (p : Port) (c : Cause) : (s.raise p c).device = s.device := rfl
@[simp] theorem raise_rstAsserted (s : State) (p : Port) (c : Cause) : (s.raise p c).rstAsserted = s.rstAsserted := rfl
@[simp] theorem raise_era (s : State) (p : Port) (c : Cause) : (s.raise p c).era = s.era := rfl
@[simp] theorem raise_divider (s : State) (p : Port) (c : Cause) : (s.raise p c).divider = s.divider := rfl
@[simp] theorem raise_lease (s : State) (p : Port) (c : Cause) : (s.raise p c).lease = s.lease := rfl
@[simp] theorem raise_lastGranted (s : State) (p : Port) (c : Cause) : (s.raise p c).lastGranted = s.lastGranted := rfl
@[simp] theorem raise_faultCount (s : State) (p : Port) (c : Cause) : (s.raise p c).faultCount = s.faultCount := rfl
@[simp] theorem raise_handles (s : State) (p : Port) (c : Cause) : (s.raise p c).handles = s.handles := rfl
@[simp] theorem raise_pools (s : State) (p : Port) (c : Cause) : (s.raise p c).pools = s.pools := rfl
@[simp] theorem raise_members (s : State) (p : Port) (c : Cause) : (s.raise p c).members = s.members := rfl
@[simp] theorem raise_buses (s : State) (p : Port) (c : Cause) : (s.raise p c).buses = s.buses := rfl
@[simp] theorem raise_pending (s : State) (p : Port) (c : Cause) : (s.raise p c).pending = s.pending := rfl
@[simp] theorem raise_pool (s : State) (p : Port) (c : Cause) (j : PoolId) : (s.raise p c).pool j = s.pool j := rfl
@[simp] theorem raise_member (s : State) (p : Port) (c : Cause) (q : Port) : (s.raise p c).member q = s.member q := rfl
@[simp] theorem raise_bus (s : State) (p : Port) (c : Cause) (q : Port) : (s.raise p c).bus q = s.bus q := rfl
@[simp] theorem raise_record (s : State) (p : Port) (c : Cause) (j : HandleNo) : (s.raise p c).record j = s.record j := rfl
@[simp] theorem raise_isOnline (s : State) (p : Port) (c : Cause) (q : Port) : (s.raise p c).isOnline q = s.isOnline q := rfl
@[simp] theorem raise_poolOf (s : State) (p : Port) (c : Cause) (j : HandleNo) : (s.raise p c).poolOf j = s.poolOf j := rfl
@[simp] theorem raise_waitEntryOf (s : State) (p : Port) (c : Cause) (q : Port) : (s.raise p c).waitEntryOf q = s.waitEntryOf q := rfl
@[simp] theorem raise_holdsLease (s : State) (p : Port) (c : Cause) (q : Port) : (s.raise p c).holdsLease q = s.holdsLease q := rfl

/-! ### post -/

@[simp] theorem post_device (s : State) (p : Port) (r : Result) : (s.post p r).device = s.device := rfl
@[simp] theorem post_rstAsserted (s : State) (p : Port) (r : Result) : (s.post p r).rstAsserted = s.rstAsserted := rfl
@[simp] theorem post_era (s : State) (p : Port) (r : Result) : (s.post p r).era = s.era := rfl
@[simp] theorem post_divider (s : State) (p : Port) (r : Result) : (s.post p r).divider = s.divider := rfl
@[simp] theorem post_lease (s : State) (p : Port) (r : Result) : (s.post p r).lease = s.lease := rfl
@[simp] theorem post_lastGranted (s : State) (p : Port) (r : Result) : (s.post p r).lastGranted = s.lastGranted := rfl
@[simp] theorem post_faultCount (s : State) (p : Port) (r : Result) : (s.post p r).faultCount = s.faultCount := rfl
@[simp] theorem post_handles (s : State) (p : Port) (r : Result) : (s.post p r).handles = s.handles := rfl
@[simp] theorem post_pools (s : State) (p : Port) (r : Result) : (s.post p r).pools = s.pools := rfl
@[simp] theorem post_members (s : State) (p : Port) (r : Result) : (s.post p r).members = s.members := rfl
@[simp] theorem post_buses (s : State) (p : Port) (r : Result) : (s.post p r).buses = s.buses := rfl
@[simp] theorem post_pending (s : State) (p : Port) (r : Result) : (s.post p r).pending = s.pending := rfl
@[simp] theorem post_pool (s : State) (p : Port) (r : Result) (j : PoolId) : (s.post p r).pool j = s.pool j := rfl
@[simp] theorem post_member (s : State) (p : Port) (r : Result) (q : Port) : (s.post p r).member q = s.member q := rfl
@[simp] theorem post_bus (s : State) (p : Port) (r : Result) (q : Port) : (s.post p r).bus q = s.bus q := rfl
@[simp] theorem post_record (s : State) (p : Port) (r : Result) (j : HandleNo) : (s.post p r).record j = s.record j := rfl
@[simp] theorem post_isOnline (s : State) (p : Port) (r : Result) (q : Port) : (s.post p r).isOnline q = s.isOnline q := rfl
@[simp] theorem post_poolOf (s : State) (p : Port) (r : Result) (j : HandleNo) : (s.post p r).poolOf j = s.poolOf j := rfl
@[simp] theorem post_waitEntryOf (s : State) (p : Port) (r : Result) (q : Port) : (s.post p r).waitEntryOf q = s.waitEntryOf q := rfl
@[simp] theorem post_holdsLease (s : State) (p : Port) (r : Result) (q : Port) : (s.post p r).holdsLease q = s.holdsLease q := rfl

/-! ### answer -/

@[simp] theorem answer_device (s : State) (p : Port) (e : Entry) (st : Status) (d : Data) : (s.answer p e st d).device = s.device := rfl
@[simp] theorem answer_rstAsserted (s : State) (p : Port) (e : Entry) (st : Status) (d : Data) : (s.answer p e st d).rstAsserted = s.rstAsserted := rfl
@[simp] theorem answer_era (s : State) (p : Port) (e : Entry) (st : Status) (d : Data) : (s.answer p e st d).era = s.era := rfl
@[simp] theorem answer_divider (s : State) (p : Port) (e : Entry) (st : Status) (d : Data) : (s.answer p e st d).divider = s.divider := rfl
@[simp] theorem answer_lease (s : State) (p : Port) (e : Entry) (st : Status) (d : Data) : (s.answer p e st d).lease = s.lease := rfl
@[simp] theorem answer_lastGranted (s : State) (p : Port) (e : Entry) (st : Status) (d : Data) : (s.answer p e st d).lastGranted = s.lastGranted := rfl
@[simp] theorem answer_faultCount (s : State) (p : Port) (e : Entry) (st : Status) (d : Data) : (s.answer p e st d).faultCount = s.faultCount := rfl
@[simp] theorem answer_handles (s : State) (p : Port) (e : Entry) (st : Status) (d : Data) : (s.answer p e st d).handles = s.handles := rfl
@[simp] theorem answer_pools (s : State) (p : Port) (e : Entry) (st : Status) (d : Data) : (s.answer p e st d).pools = s.pools := rfl
@[simp] theorem answer_members (s : State) (p : Port) (e : Entry) (st : Status) (d : Data) : (s.answer p e st d).members = s.members := rfl
@[simp] theorem answer_buses (s : State) (p : Port) (e : Entry) (st : Status) (d : Data) : (s.answer p e st d).buses = s.buses := rfl
@[simp] theorem answer_pending (s : State) (p : Port) (e : Entry) (st : Status) (d : Data) : (s.answer p e st d).pending = s.pending := rfl
@[simp] theorem answer_pool (s : State) (p : Port) (e : Entry) (st : Status) (d : Data) (j : PoolId) : (s.answer p e st d).pool j = s.pool j := rfl
@[simp] theorem answer_member (s : State) (p : Port) (e : Entry) (st : Status) (d : Data) (q : Port) : (s.answer p e st d).member q = s.member q := rfl
@[simp] theorem answer_bus (s : State) (p : Port) (e : Entry) (st : Status) (d : Data) (q : Port) : (s.answer p e st d).bus q = s.bus q := rfl
@[simp] theorem answer_record (s : State) (p : Port) (e : Entry) (st : Status) (d : Data) (j : HandleNo) : (s.answer p e st d).record j = s.record j := rfl
@[simp] theorem answer_isOnline (s : State) (p : Port) (e : Entry) (st : Status) (d : Data) (q : Port) : (s.answer p e st d).isOnline q = s.isOnline q := rfl
@[simp] theorem answer_poolOf (s : State) (p : Port) (e : Entry) (st : Status) (d : Data) (j : HandleNo) : (s.answer p e st d).poolOf j = s.poolOf j := rfl
@[simp] theorem answer_waitEntryOf (s : State) (p : Port) (e : Entry) (st : Status) (d : Data) (q : Port) : (s.answer p e st d).waitEntryOf q = s.waitEntryOf q := rfl
@[simp] theorem answer_holdsLease (s : State) (p : Port) (e : Entry) (st : Status) (d : Data) (q : Port) : (s.answer p e st d).holdsLease q = s.holdsLease q := rfl

/-! ### postDeferred -/

@[simp] theorem postDeferred_device (s : State) (w : WaitEntry) (st : Status) (d : Data) : (s.postDeferred w st d).device = s.device := rfl
@[simp] theorem postDeferred_rstAsserted (s : State) (w : WaitEntry) (st : Status) (d : Data) : (s.postDeferred w st d).rstAsserted = s.rstAsserted := rfl
@[simp] theorem postDeferred_era (s : State) (w : WaitEntry) (st : Status) (d : Data) : (s.postDeferred w st d).era = s.era := rfl
@[simp] theorem postDeferred_divider (s : State) (w : WaitEntry) (st : Status) (d : Data) : (s.postDeferred w st d).divider = s.divider := rfl
@[simp] theorem postDeferred_lease (s : State) (w : WaitEntry) (st : Status) (d : Data) : (s.postDeferred w st d).lease = s.lease := rfl
@[simp] theorem postDeferred_lastGranted (s : State) (w : WaitEntry) (st : Status) (d : Data) : (s.postDeferred w st d).lastGranted = s.lastGranted := rfl
@[simp] theorem postDeferred_faultCount (s : State) (w : WaitEntry) (st : Status) (d : Data) : (s.postDeferred w st d).faultCount = s.faultCount := rfl
@[simp] theorem postDeferred_handles (s : State) (w : WaitEntry) (st : Status) (d : Data) : (s.postDeferred w st d).handles = s.handles := rfl
@[simp] theorem postDeferred_pools (s : State) (w : WaitEntry) (st : Status) (d : Data) : (s.postDeferred w st d).pools = s.pools := rfl
@[simp] theorem postDeferred_members (s : State) (w : WaitEntry) (st : Status) (d : Data) : (s.postDeferred w st d).members = s.members := rfl
@[simp] theorem postDeferred_buses (s : State) (w : WaitEntry) (st : Status) (d : Data) : (s.postDeferred w st d).buses = s.buses := rfl
@[simp] theorem postDeferred_pending (s : State) (w : WaitEntry) (st : Status) (d : Data) : (s.postDeferred w st d).pending = s.pending := rfl
@[simp] theorem postDeferred_pool (s : State) (w : WaitEntry) (st : Status) (d : Data) (j : PoolId) : (s.postDeferred w st d).pool j = s.pool j := rfl
@[simp] theorem postDeferred_member (s : State) (w : WaitEntry) (st : Status) (d : Data) (q : Port) : (s.postDeferred w st d).member q = s.member q := rfl
@[simp] theorem postDeferred_bus (s : State) (w : WaitEntry) (st : Status) (d : Data) (q : Port) : (s.postDeferred w st d).bus q = s.bus q := rfl
@[simp] theorem postDeferred_record (s : State) (w : WaitEntry) (st : Status) (d : Data) (j : HandleNo) : (s.postDeferred w st d).record j = s.record j := rfl
@[simp] theorem postDeferred_isOnline (s : State) (w : WaitEntry) (st : Status) (d : Data) (q : Port) : (s.postDeferred w st d).isOnline q = s.isOnline q := rfl
@[simp] theorem postDeferred_poolOf (s : State) (w : WaitEntry) (st : Status) (d : Data) (j : HandleNo) : (s.postDeferred w st d).poolOf j = s.poolOf j := rfl
@[simp] theorem postDeferred_waitEntryOf (s : State) (w : WaitEntry) (st : Status) (d : Data) (q : Port) : (s.postDeferred w st d).waitEntryOf q = s.waitEntryOf q := rfl
@[simp] theorem postDeferred_holdsLease (s : State) (w : WaitEntry) (st : Status) (d : Data) (q : Port) : (s.postDeferred w st d).holdsLease q = s.holdsLease q := rfl

/-! ### raiseCharge -/

@[simp] theorem raiseCharge_device (s : State) (k : PoolId) (h : HandleNo) (p : Port) : (s.raiseCharge k h p).device = s.device := rfl
@[simp] theorem raiseCharge_rstAsserted (s : State) (k : PoolId) (h : HandleNo) (p : Port) : (s.raiseCharge k h p).rstAsserted = s.rstAsserted := rfl
@[simp] theorem raiseCharge_era (s : State) (k : PoolId) (h : HandleNo) (p : Port) : (s.raiseCharge k h p).era = s.era := rfl
@[simp] theorem raiseCharge_divider (s : State) (k : PoolId) (h : HandleNo) (p : Port) : (s.raiseCharge k h p).divider = s.divider := rfl
@[simp] theorem raiseCharge_lease (s : State) (k : PoolId) (h : HandleNo) (p : Port) : (s.raiseCharge k h p).lease = s.lease := rfl
@[simp] theorem raiseCharge_lastGranted (s : State) (k : PoolId) (h : HandleNo) (p : Port) : (s.raiseCharge k h p).lastGranted = s.lastGranted := rfl
@[simp] theorem raiseCharge_faultCount (s : State) (k : PoolId) (h : HandleNo) (p : Port) : (s.raiseCharge k h p).faultCount = s.faultCount := rfl
@[simp] theorem raiseCharge_handles (s : State) (k : PoolId) (h : HandleNo) (p : Port) : (s.raiseCharge k h p).handles = s.handles := rfl
@[simp] theorem raiseCharge_members (s : State) (k : PoolId) (h : HandleNo) (p : Port) : (s.raiseCharge k h p).members = s.members := rfl
@[simp] theorem raiseCharge_windows (s : State) (k : PoolId) (h : HandleNo) (p : Port) : (s.raiseCharge k h p).windows = s.windows := rfl
@[simp] theorem raiseCharge_buses (s : State) (k : PoolId) (h : HandleNo) (p : Port) : (s.raiseCharge k h p).buses = s.buses := rfl
@[simp] theorem raiseCharge_pending (s : State) (k : PoolId) (h : HandleNo) (p : Port) : (s.raiseCharge k h p).pending = s.pending := rfl
@[simp] theorem raiseCharge_member (s : State) (k : PoolId) (h : HandleNo) (p : Port) (q : Port) : (s.raiseCharge k h p).member q = s.member q := rfl
@[simp] theorem raiseCharge_window (s : State) (k : PoolId) (h : HandleNo) (p : Port) (q : Port) : (s.raiseCharge k h p).window q = s.window q := rfl
@[simp] theorem raiseCharge_bus (s : State) (k : PoolId) (h : HandleNo) (p : Port) (q : Port) : (s.raiseCharge k h p).bus q = s.bus q := rfl
@[simp] theorem raiseCharge_record (s : State) (k : PoolId) (h : HandleNo) (p : Port) (j : HandleNo) : (s.raiseCharge k h p).record j = s.record j := rfl
@[simp] theorem raiseCharge_isOnline (s : State) (k : PoolId) (h : HandleNo) (p : Port) (q : Port) : (s.raiseCharge k h p).isOnline q = s.isOnline q := rfl
@[simp] theorem raiseCharge_holdsLease (s : State) (k : PoolId) (h : HandleNo) (p : Port) (q : Port) : (s.raiseCharge k h p).holdsLease q = s.holdsLease q := rfl

/-! ### lowerCharge -/

@[simp] theorem lowerCharge_device (s : State) (k : PoolId) (h : HandleNo) (p : Port) : (s.lowerCharge k h p).device = s.device := rfl
@[simp] theorem lowerCharge_rstAsserted (s : State) (k : PoolId) (h : HandleNo) (p : Port) : (s.lowerCharge k h p).rstAsserted = s.rstAsserted := rfl
@[simp] theorem lowerCharge_era (s : State) (k : PoolId) (h : HandleNo) (p : Port) : (s.lowerCharge k h p).era = s.era := rfl
@[simp] theorem lowerCharge_divider (s : State) (k : PoolId) (h : HandleNo) (p : Port) : (s.lowerCharge k h p).divider = s.divider := rfl
@[simp] theorem lowerCharge_lease (s : State) (k : PoolId) (h : HandleNo) (p : Port) : (s.lowerCharge k h p).lease = s.lease := rfl
@[simp] theorem lowerCharge_lastGranted (s : State) (k : PoolId) (h : HandleNo) (p : Port) : (s.lowerCharge k h p).lastGranted = s.lastGranted := rfl
@[simp] theorem lowerCharge_faultCount (s : State) (k : PoolId) (h : HandleNo) (p : Port) : (s.lowerCharge k h p).faultCount = s.faultCount := rfl
@[simp] theorem lowerCharge_handles (s : State) (k : PoolId) (h : HandleNo) (p : Port) : (s.lowerCharge k h p).handles = s.handles := rfl
@[simp] theorem lowerCharge_members (s : State) (k : PoolId) (h : HandleNo) (p : Port) : (s.lowerCharge k h p).members = s.members := rfl
@[simp] theorem lowerCharge_windows (s : State) (k : PoolId) (h : HandleNo) (p : Port) : (s.lowerCharge k h p).windows = s.windows := rfl
@[simp] theorem lowerCharge_buses (s : State) (k : PoolId) (h : HandleNo) (p : Port) : (s.lowerCharge k h p).buses = s.buses := rfl
@[simp] theorem lowerCharge_pending (s : State) (k : PoolId) (h : HandleNo) (p : Port) : (s.lowerCharge k h p).pending = s.pending := rfl
@[simp] theorem lowerCharge_member (s : State) (k : PoolId) (h : HandleNo) (p : Port) (q : Port) : (s.lowerCharge k h p).member q = s.member q := rfl
@[simp] theorem lowerCharge_window (s : State) (k : PoolId) (h : HandleNo) (p : Port) (q : Port) : (s.lowerCharge k h p).window q = s.window q := rfl
@[simp] theorem lowerCharge_bus (s : State) (k : PoolId) (h : HandleNo) (p : Port) (q : Port) : (s.lowerCharge k h p).bus q = s.bus q := rfl
@[simp] theorem lowerCharge_record (s : State) (k : PoolId) (h : HandleNo) (p : Port) (j : HandleNo) : (s.lowerCharge k h p).record j = s.record j := rfl
@[simp] theorem lowerCharge_isOnline (s : State) (k : PoolId) (h : HandleNo) (p : Port) (q : Port) : (s.lowerCharge k h p).isOnline q = s.isOnline q := rfl
@[simp] theorem lowerCharge_holdsLease (s : State) (k : PoolId) (h : HandleNo) (p : Port) (q : Port) : (s.lowerCharge k h p).holdsLease q = s.holdsLease q := rfl

/-! ### popDelivery -/

@[simp] theorem popDelivery_device (s : State) (p : Port) : (s.popDelivery p).device = s.device := rfl
@[simp] theorem popDelivery_rstAsserted (s : State) (p : Port) : (s.popDelivery p).rstAsserted = s.rstAsserted := rfl
@[simp] theorem popDelivery_era (s : State) (p : Port) : (s.popDelivery p).era = s.era := rfl
@[simp] theorem popDelivery_divider (s : State) (p : Port) : (s.popDelivery p).divider = s.divider := rfl
@[simp] theorem popDelivery_lease (s : State) (p : Port) : (s.popDelivery p).lease = s.lease := rfl
@[simp] theorem popDelivery_lastGranted (s : State) (p : Port) : (s.popDelivery p).lastGranted = s.lastGranted := rfl
@[simp] theorem popDelivery_faultCount (s : State) (p : Port) : (s.popDelivery p).faultCount = s.faultCount := rfl
@[simp] theorem popDelivery_handles (s : State) (p : Port) : (s.popDelivery p).handles = s.handles := rfl
@[simp] theorem popDelivery_pools (s : State) (p : Port) : (s.popDelivery p).pools = s.pools := rfl
@[simp] theorem popDelivery_windows (s : State) (p : Port) : (s.popDelivery p).windows = s.windows := rfl
@[simp] theorem popDelivery_buses (s : State) (p : Port) : (s.popDelivery p).buses = s.buses := rfl
@[simp] theorem popDelivery_pending (s : State) (p : Port) : (s.popDelivery p).pending = s.pending := rfl
@[simp] theorem popDelivery_pool (s : State) (p : Port) (j : PoolId) : (s.popDelivery p).pool j = s.pool j := rfl
@[simp] theorem popDelivery_window (s : State) (p : Port) (q : Port) : (s.popDelivery p).window q = s.window q := rfl
@[simp] theorem popDelivery_bus (s : State) (p : Port) (q : Port) : (s.popDelivery p).bus q = s.bus q := rfl
@[simp] theorem popDelivery_record (s : State) (p : Port) (j : HandleNo) : (s.popDelivery p).record j = s.record j := rfl
@[simp] theorem popDelivery_poolOf (s : State) (p : Port) (j : HandleNo) : (s.popDelivery p).poolOf j = s.poolOf j := rfl
@[simp] theorem popDelivery_waitEntryOf (s : State) (p : Port) (q : Port) : (s.popDelivery p).waitEntryOf q = s.waitEntryOf q := rfl
@[simp] theorem popDelivery_holdsLease (s : State) (p : Port) (q : Port) : (s.popDelivery p).holdsLease q = s.holdsLease q := rfl

/-! ### addDelivery -/

@[simp] theorem addDelivery_device (s : State) (p : Port) (d : Delivery) (c : DeliveryClass) : (s.addDelivery p d c).device = s.device := rfl
@[simp] theorem addDelivery_rstAsserted (s : State) (p : Port) (d : Delivery) (c : DeliveryClass) : (s.addDelivery p d c).rstAsserted = s.rstAsserted := rfl
@[simp] theorem addDelivery_era (s : State) (p : Port) (d : Delivery) (c : DeliveryClass) : (s.addDelivery p d c).era = s.era := rfl
@[simp] theorem addDelivery_divider (s : State) (p : Port) (d : Delivery) (c : DeliveryClass) : (s.addDelivery p d c).divider = s.divider := rfl
@[simp] theorem addDelivery_lease (s : State) (p : Port) (d : Delivery) (c : DeliveryClass) : (s.addDelivery p d c).lease = s.lease := rfl
@[simp] theorem addDelivery_lastGranted (s : State) (p : Port) (d : Delivery) (c : DeliveryClass) : (s.addDelivery p d c).lastGranted = s.lastGranted := rfl
@[simp] theorem addDelivery_faultCount (s : State) (p : Port) (d : Delivery) (c : DeliveryClass) : (s.addDelivery p d c).faultCount = s.faultCount := rfl
@[simp] theorem addDelivery_handles (s : State) (p : Port) (d : Delivery) (c : DeliveryClass) : (s.addDelivery p d c).handles = s.handles := rfl
@[simp] theorem addDelivery_pools (s : State) (p : Port) (d : Delivery) (c : DeliveryClass) : (s.addDelivery p d c).pools = s.pools := rfl
@[simp] theorem addDelivery_windows (s : State) (p : Port) (d : Delivery) (c : DeliveryClass) : (s.addDelivery p d c).windows = s.windows := rfl
@[simp] theorem addDelivery_buses (s : State) (p : Port) (d : Delivery) (c : DeliveryClass) : (s.addDelivery p d c).buses = s.buses := rfl
@[simp] theorem addDelivery_pending (s : State) (p : Port) (d : Delivery) (c : DeliveryClass) : (s.addDelivery p d c).pending = s.pending := rfl
@[simp] theorem addDelivery_pool (s : State) (p : Port) (d : Delivery) (c : DeliveryClass) (j : PoolId) : (s.addDelivery p d c).pool j = s.pool j := rfl
@[simp] theorem addDelivery_window (s : State) (p : Port) (d : Delivery) (c : DeliveryClass) (q : Port) : (s.addDelivery p d c).window q = s.window q := rfl
@[simp] theorem addDelivery_bus (s : State) (p : Port) (d : Delivery) (c : DeliveryClass) (q : Port) : (s.addDelivery p d c).bus q = s.bus q := rfl
@[simp] theorem addDelivery_record (s : State) (p : Port) (d : Delivery) (c : DeliveryClass) (j : HandleNo) : (s.addDelivery p d c).record j = s.record j := rfl
@[simp] theorem addDelivery_poolOf (s : State) (p : Port) (d : Delivery) (c : DeliveryClass) (j : HandleNo) : (s.addDelivery p d c).poolOf j = s.poolOf j := rfl
@[simp] theorem addDelivery_waitEntryOf (s : State) (p : Port) (d : Delivery) (c : DeliveryClass) (q : Port) : (s.addDelivery p d c).waitEntryOf q = s.waitEntryOf q := rfl
@[simp] theorem addDelivery_holdsLease (s : State) (p : Port) (d : Delivery) (c : DeliveryClass) (q : Port) : (s.addDelivery p d c).holdsLease q = s.holdsLease q := rfl

/-! ### removeDeliveries -/

@[simp] theorem removeDeliveries_device (s : State) (h : HandleNo) : (s.removeDeliveries h).device = s.device := rfl
@[simp] theorem removeDeliveries_rstAsserted (s : State) (h : HandleNo) : (s.removeDeliveries h).rstAsserted = s.rstAsserted := rfl
@[simp] theorem removeDeliveries_era (s : State) (h : HandleNo) : (s.removeDeliveries h).era = s.era := rfl
@[simp] theorem removeDeliveries_divider (s : State) (h : HandleNo) : (s.removeDeliveries h).divider = s.divider := rfl
@[simp] theorem removeDeliveries_lease (s : State) (h : HandleNo) : (s.removeDeliveries h).lease = s.lease := rfl
@[simp] theorem removeDeliveries_lastGranted (s : State) (h : HandleNo) : (s.removeDeliveries h).lastGranted = s.lastGranted := rfl
@[simp] theorem removeDeliveries_faultCount (s : State) (h : HandleNo) : (s.removeDeliveries h).faultCount = s.faultCount := rfl
@[simp] theorem removeDeliveries_handles (s : State) (h : HandleNo) : (s.removeDeliveries h).handles = s.handles := rfl
@[simp] theorem removeDeliveries_pools (s : State) (h : HandleNo) : (s.removeDeliveries h).pools = s.pools := rfl
@[simp] theorem removeDeliveries_windows (s : State) (h : HandleNo) : (s.removeDeliveries h).windows = s.windows := rfl
@[simp] theorem removeDeliveries_buses (s : State) (h : HandleNo) : (s.removeDeliveries h).buses = s.buses := rfl
@[simp] theorem removeDeliveries_pending (s : State) (h : HandleNo) : (s.removeDeliveries h).pending = s.pending := rfl
@[simp] theorem removeDeliveries_pool (s : State) (h : HandleNo) (j : PoolId) : (s.removeDeliveries h).pool j = s.pool j := rfl
@[simp] theorem removeDeliveries_window (s : State) (h : HandleNo) (q : Port) : (s.removeDeliveries h).window q = s.window q := rfl
@[simp] theorem removeDeliveries_bus (s : State) (h : HandleNo) (q : Port) : (s.removeDeliveries h).bus q = s.bus q := rfl
@[simp] theorem removeDeliveries_record (s : State) (h : HandleNo) (j : HandleNo) : (s.removeDeliveries h).record j = s.record j := rfl
@[simp] theorem removeDeliveries_poolOf (s : State) (h : HandleNo) (j : HandleNo) : (s.removeDeliveries h).poolOf j = s.poolOf j := rfl
@[simp] theorem removeDeliveries_waitEntryOf (s : State) (h : HandleNo) (q : Port) : (s.removeDeliveries h).waitEntryOf q = s.waitEntryOf q := rfl
@[simp] theorem removeDeliveries_holdsLease (s : State) (h : HandleNo) (q : Port) : (s.removeDeliveries h).holdsLease q = s.holdsLease q := rfl

/-! ### countFault -/

@[simp] theorem countFault_device (s : State) : (s.countFault).device = s.device := rfl
@[simp] theorem countFault_rstAsserted (s : State) : (s.countFault).rstAsserted = s.rstAsserted := rfl
@[simp] theorem countFault_era (s : State) : (s.countFault).era = s.era := rfl
@[simp] theorem countFault_divider (s : State) : (s.countFault).divider = s.divider := rfl
@[simp] theorem countFault_lease (s : State) : (s.countFault).lease = s.lease := rfl
@[simp] theorem countFault_lastGranted (s : State) : (s.countFault).lastGranted = s.lastGranted := rfl
@[simp] theorem countFault_handles (s : State) : (s.countFault).handles = s.handles := rfl
@[simp] theorem countFault_pools (s : State) : (s.countFault).pools = s.pools := rfl
@[simp] theorem countFault_members (s : State) : (s.countFault).members = s.members := rfl
@[simp] theorem countFault_windows (s : State) : (s.countFault).windows = s.windows := rfl
@[simp] theorem countFault_buses (s : State) : (s.countFault).buses = s.buses := rfl
@[simp] theorem countFault_pending (s : State) : (s.countFault).pending = s.pending := rfl
@[simp] theorem countFault_pool (s : State) (j : PoolId) : (s.countFault).pool j = s.pool j := rfl
@[simp] theorem countFault_member (s : State) (q : Port) : (s.countFault).member q = s.member q := rfl
@[simp] theorem countFault_window (s : State) (q : Port) : (s.countFault).window q = s.window q := rfl
@[simp] theorem countFault_bus (s : State) (q : Port) : (s.countFault).bus q = s.bus q := rfl
@[simp] theorem countFault_record (s : State) (j : HandleNo) : (s.countFault).record j = s.record j := rfl
@[simp] theorem countFault_isOnline (s : State) (q : Port) : (s.countFault).isOnline q = s.isOnline q := rfl
@[simp] theorem countFault_poolOf (s : State) (j : HandleNo) : (s.countFault).poolOf j = s.poolOf j := rfl
@[simp] theorem countFault_waitEntryOf (s : State) (q : Port) : (s.countFault).waitEntryOf q = s.waitEntryOf q := rfl
@[simp] theorem countFault_holdsLease (s : State) (q : Port) : (s.countFault).holdsLease q = s.holdsLease q := rfl

/-! ### taken -/

@[simp] theorem taken_device (s : State) (p : Port) : (s.taken p).device = s.device := rfl
@[simp] theorem taken_rstAsserted (s : State) (p : Port) : (s.taken p).rstAsserted = s.rstAsserted := rfl
@[simp] theorem taken_era (s : State) (p : Port) : (s.taken p).era = s.era := rfl
@[simp] theorem taken_divider (s : State) (p : Port) : (s.taken p).divider = s.divider := rfl
@[simp] theorem taken_lease (s : State) (p : Port) : (s.taken p).lease = s.lease := rfl
@[simp] theorem taken_faultCount (s : State) (p : Port) : (s.taken p).faultCount = s.faultCount := rfl
@[simp] theorem taken_handles (s : State) (p : Port) : (s.taken p).handles = s.handles := rfl
@[simp] theorem taken_pools (s : State) (p : Port) : (s.taken p).pools = s.pools := rfl
@[simp] theorem taken_members (s : State) (p : Port) : (s.taken p).members = s.members := rfl
@[simp] theorem taken_buses (s : State) (p : Port) : (s.taken p).buses = s.buses := rfl
@[simp] theorem taken_pending (s : State) (p : Port) : (s.taken p).pending = s.pending := rfl
@[simp] theorem taken_pool (s : State) (p : Port) (j : PoolId) : (s.taken p).pool j = s.pool j := rfl
@[simp] theorem taken_member (s : State) (p : Port) (q : Port) : (s.taken p).member q = s.member q := rfl
@[simp] theorem taken_bus (s : State) (p : Port) (q : Port) : (s.taken p).bus q = s.bus q := rfl
@[simp] theorem taken_record (s : State) (p : Port) (j : HandleNo) : (s.taken p).record j = s.record j := rfl
@[simp] theorem taken_isOnline (s : State) (p : Port) (q : Port) : (s.taken p).isOnline q = s.isOnline q := rfl
@[simp] theorem taken_poolOf (s : State) (p : Port) (j : HandleNo) : (s.taken p).poolOf j = s.poolOf j := rfl
@[simp] theorem taken_waitEntryOf (s : State) (p : Port) (q : Port) : (s.taken p).waitEntryOf q = s.waitEntryOf q := rfl
@[simp] theorem taken_holdsLease (s : State) (p : Port) (q : Port) : (s.taken p).holdsLease q = s.holdsLease q := rfl

/-! ### fireWatch -/

@[simp] theorem fireWatch_device (s : State) (k : PoolId) (p : Port) : (s.fireWatch k p).device = s.device := rfl
@[simp] theorem fireWatch_rstAsserted (s : State) (k : PoolId) (p : Port) : (s.fireWatch k p).rstAsserted = s.rstAsserted := rfl
@[simp] theorem fireWatch_era (s : State) (k : PoolId) (p : Port) : (s.fireWatch k p).era = s.era := rfl
@[simp] theorem fireWatch_divider (s : State) (k : PoolId) (p : Port) : (s.fireWatch k p).divider = s.divider := rfl
@[simp] theorem fireWatch_lease (s : State) (k : PoolId) (p : Port) : (s.fireWatch k p).lease = s.lease := rfl
@[simp] theorem fireWatch_lastGranted (s : State) (k : PoolId) (p : Port) : (s.fireWatch k p).lastGranted = s.lastGranted := rfl
@[simp] theorem fireWatch_faultCount (s : State) (k : PoolId) (p : Port) : (s.fireWatch k p).faultCount = s.faultCount := rfl
@[simp] theorem fireWatch_handles (s : State) (k : PoolId) (p : Port) : (s.fireWatch k p).handles = s.handles := rfl
@[simp] theorem fireWatch_members (s : State) (k : PoolId) (p : Port) : (s.fireWatch k p).members = s.members := rfl
@[simp] theorem fireWatch_buses (s : State) (k : PoolId) (p : Port) : (s.fireWatch k p).buses = s.buses := rfl
@[simp] theorem fireWatch_pending (s : State) (k : PoolId) (p : Port) : (s.fireWatch k p).pending = s.pending := rfl
@[simp] theorem fireWatch_member (s : State) (k : PoolId) (p : Port) (q : Port) : (s.fireWatch k p).member q = s.member q := rfl
@[simp] theorem fireWatch_bus (s : State) (k : PoolId) (p : Port) (q : Port) : (s.fireWatch k p).bus q = s.bus q := rfl
@[simp] theorem fireWatch_record (s : State) (k : PoolId) (p : Port) (j : HandleNo) : (s.fireWatch k p).record j = s.record j := rfl
@[simp] theorem fireWatch_isOnline (s : State) (k : PoolId) (p : Port) (q : Port) : (s.fireWatch k p).isOnline q = s.isOnline q := rfl
@[simp] theorem fireWatch_holdsLease (s : State) (k : PoolId) (p : Port) (q : Port) : (s.fireWatch k p).holdsLease q = s.holdsLease q := rfl
/-! ### What the updates change -/

@[simp] theorem updPool_pool_self (s : State) (k : PoolId) (f : PoolRec → PoolRec) :
    (s.updPool k f).pool k = f (s.pool k) := by
  simp [State.updPool, State.pool]

theorem updPool_pool_ne (s : State) (f : PoolRec → PoolRec) {j k : PoolId} (h : j ≠ k) :
    (s.updPool k f).pool j = s.pool j := by
  have h' : (k : Nat) ≠ j := fun e => h (Fin.ext e.symm)
  simp [State.updPool, State.pool, h']

theorem updPool_pool (s : State) (k j : PoolId) (f : PoolRec → PoolRec) :
    (s.updPool k f).pool j = if j = k then f (s.pool k) else s.pool j := by
  split
  · subst_vars; simp
  · exact updPool_pool_ne _ _ ‹_›

@[simp] theorem updMember_member_self (s : State) (p : Port) (f : Member → Member) :
    (s.updMember p f).member p = f (s.member p) := by
  simp [State.updMember, State.member]

theorem updMember_member_ne (s : State) (f : Member → Member) {p q : Port} (h : q ≠ p) :
    (s.updMember p f).member q = s.member q := by
  have h' : (p : Nat) ≠ q := fun e => h (Fin.ext e.symm)
  simp [State.updMember, State.member, h']

theorem updMember_member (s : State) (p q : Port) (f : Member → Member) :
    (s.updMember p f).member q = if q = p then f (s.member p) else s.member q := by
  split
  · subst_vars; simp
  · exact updMember_member_ne _ _ ‹_›

@[simp] theorem updWindow_window_self (s : State) (p : Port) (f : Window → Window) :
    (s.updWindow p f).window p = f (s.window p) := by
  simp [State.updWindow, State.window]

theorem updWindow_window_ne (s : State) (f : Window → Window) {p q : Port} (h : q ≠ p) :
    (s.updWindow p f).window q = s.window q := by
  have h' : (p : Nat) ≠ q := fun e => h (Fin.ext e.symm)
  simp [State.updWindow, State.window, h']

theorem updWindow_window (s : State) (p q : Port) (f : Window → Window) :
    (s.updWindow p f).window q = if q = p then f (s.window p) else s.window q := by
  split
  · subst_vars; simp
  · exact updWindow_window_ne _ _ ‹_›

@[simp] theorem updBus_bus_self (s : State) (p : Port) (f : BusPhase → BusPhase) :
    (s.updBus p f).bus p = f (s.bus p) := by
  simp [State.updBus, State.bus]

theorem updBus_bus_ne (s : State) (f : BusPhase → BusPhase) {p q : Port} (h : q ≠ p) :
    (s.updBus p f).bus q = s.bus q := by
  have h' : (p : Nat) ≠ q := fun e => h (Fin.ext e.symm)
  simp [State.updBus, State.bus, h']

@[simp] theorem capture_bus_self (s : State) (p : Port) (v : Word) :
    (s.capture p v).bus p = { s.bus p with readData := v } := by
  simp [State.capture]

theorem capture_bus_ne (s : State) (v : Word) {p q : Port} (h : q ≠ p) :
    (s.capture p v).bus q = s.bus q := updBus_bus_ne s _ h

@[simp] theorem raise_window_self (s : State) (p : Port) (c : Cause) :
    (s.raise p c).window p = (s.window p).raised c := by
  simp [State.raise, Window.raised]

theorem raise_window_ne (s : State) (c : Cause) {p q : Port} (h : q ≠ p) :
    (s.raise p c).window q = s.window q := by
  simp [State.raise, updWindow_window_ne _ _ h]

theorem raise_window (s : State) (p q : Port) (c : Cause) :
    (s.raise p c).window q = if q = p then (s.window p).raised c else s.window q := by
  simp [State.raise, updWindow_window, Window.raised]

@[simp] theorem answer_window_self (s : State) (p : Port) (e : Entry) (st : Status) (d : Data) :
    (s.answer p e st d).window p
      = { s.window p with results := (s.window p).results ++ [⟨e.code, e.tag, st, d⟩] } := by
  simp [State.answer, State.post]

theorem answer_window_ne (s : State) (e : Entry) (st : Status) (d : Data) {p q : Port} (h : q ≠ p) :
    (s.answer p e st d).window q = s.window q := by
  simp [State.answer, State.post, updWindow_window_ne _ _ h]

theorem answer_window (s : State) (p q : Port) (e : Entry) (st : Status) (d : Data) :
    (s.answer p e st d).window q
      = if q = p then { s.window p with results := (s.window p).results ++ [⟨e.code, e.tag, st, d⟩] }
        else s.window q := by
  simp [State.answer, State.post, updWindow_window]

@[simp] theorem postDeferred_window_self (s : State) (w : WaitEntry) (st : Status) (d : Data) :
    (s.postDeferred w st d).window w.port = (s.window w.port).deferred w st d := by
  simp [State.postDeferred, State.post, Window.deferred]

theorem postDeferred_window_ne (s : State) (w : WaitEntry) (st : Status) (d : Data) {q : Port}
    (h : q ≠ w.port) : (s.postDeferred w st d).window q = s.window q := by
  simp [State.postDeferred, State.post, updWindow_window_ne _ _ h]

@[simp] theorem taken_window_self (s : State) (p : Port) :
    (s.taken p).window p = { s.window p with queue := (s.window p).queue.tail } := by
  simp [State.taken, State.updWindow, State.window]

theorem taken_window_ne (s : State) {p q : Port} (h : q ≠ p) : (s.taken p).window q = s.window q := by
  have h' : (p : Nat) ≠ q := fun e => h (Fin.ext e.symm)
  simp [State.taken, State.updWindow, State.window, h']

@[simp] theorem taken_lastGranted (s : State) (p : Port) : (s.taken p).lastGranted = p := rfl

@[simp] theorem countFault_faultCount (s : State) : s.countFault.faultCount = min 255 (s.faultCount + 1) := rfl

@[simp] theorem raiseCharge_pool_self (s : State) (k : PoolId) (h : HandleNo) (p : Port) :
    (s.raiseCharge k h p).pool k = (s.pool k).adjustCharge h p (· + 1) := by
  simp [State.raiseCharge]

theorem raiseCharge_pool_ne (s : State) {j k : PoolId} (h : HandleNo) (p : Port) (hj : j ≠ k) :
    (s.raiseCharge k h p).pool j = s.pool j := updPool_pool_ne _ _ hj

@[simp] theorem lowerCharge_pool_self (s : State) (k : PoolId) (h : HandleNo) (p : Port) :
    (s.lowerCharge k h p).pool k = (s.pool k).adjustCharge h p (· - 1) := by
  simp [State.lowerCharge]

theorem lowerCharge_pool_ne (s : State) {j k : PoolId} (h : HandleNo) (p : Port) (hj : j ≠ k) :
    (s.lowerCharge k h p).pool j = s.pool j := updPool_pool_ne _ _ hj

@[simp] theorem popDelivery_member_self (s : State) (p : Port) :
    (s.popDelivery p).member p = { s.member p with inbound := (s.member p).inbound.tail } := by
  simp [State.popDelivery]

theorem popDelivery_member_ne (s : State) {p q : Port} (h : q ≠ p) :
    (s.popDelivery p).member q = s.member q := updMember_member_ne _ _ h

@[simp] theorem addDelivery_member_self (s : State) (p : Port) (d : Delivery) (c : DeliveryClass) :
    (s.addDelivery p d c).member p = { s.member p with inbound := (s.member p).inbound.join d c } := by
  simp [State.addDelivery]

theorem addDelivery_member_ne (s : State) (d : Delivery) (c : DeliveryClass) {p q : Port} (h : q ≠ p) :
    (s.addDelivery p d c).member q = s.member q := updMember_member_ne _ _ h

@[simp] theorem removeDeliveries_member (s : State) (h : HandleNo) (q : Port) :
    (s.removeDeliveries h).member q
      = { s.member q with inbound := (s.member q).inbound.without h } := by
  simp [State.removeDeliveries, State.member]

@[simp] theorem fireWatch_pool_self (s : State) (k : PoolId) (p : Port) :
    (s.fireWatch k p).pool k
      = { s.pool k with watches := (s.pool k).watches.set p.val none p.isLt } := by
  simp [State.fireWatch]

theorem fireWatch_pool_ne (s : State) {j k : PoolId} (p : Port) (h : j ≠ k) :
    (s.fireWatch k p).pool j = s.pool j := by
  simp [State.fireWatch, updPool_pool_ne _ _ h]

@[simp] theorem fireWatch_window_self (s : State) (k : PoolId) (p : Port) :
    (s.fireWatch k p).window p = (s.window p).fired k := by
  simp [State.fireWatch, Window.fired, Window.raised]

theorem fireWatch_window_ne (s : State) (k : PoolId) {p q : Port} (h : q ≠ p) :
    (s.fireWatch k p).window q = s.window q := by
  simp [State.fireWatch, updWindow_window_ne _ _ h, raise_window_ne _ _ h]

end Sys2Proof.Machine
end

