-- ==== Sys2Proof/Laws/HandleTable.lean ====
section
/-! SUPPORT. The handle table: what a read gives after a write, and the canonical form that every write keeps. -/

namespace Sys2Proof.Machine

theorem Table.get_remove_same (h : HandleNo) (t : List (Nat × HandleRec)) :
    Table.get h (Table.remove h t) = .initial := by
  induction t with
  | nil => rfl
  | cons x rest ih => obtain ⟨k, q⟩ := x; unfold Table.remove; split <;> simp_all [Table.get]

theorem Table.get_remove_ne {h j : HandleNo} (hj : j ≠ h) (t : List (Nat × HandleRec)) :
    Table.get j (Table.remove h t) = Table.get j t := by
  induction t with
  | nil => rfl
  | cons x rest ih =>
    obtain ⟨k, q⟩ := x
    unfold Table.remove
    split
    · subst_vars; simp [Table.get, Ne.symm hj, ih]
    · simp only [Table.get, ih]

theorem Table.get_insert_remove_same (h : HandleNo) (r : HandleRec) (t : List (Nat × HandleRec)) :
    Table.get h (Table.insert h r (Table.remove h t)) = r := by
  induction t with
  | nil => simp [Table.remove, Table.insert, Table.get]
  | cons x rest ih =>
    obtain ⟨k, q⟩ := x
    unfold Table.remove
    split
    · exact ih
    · rename_i hk
      unfold Table.insert
      split <;> simp [Table.get, hk, ih]

theorem Table.get_insert_ne {h j : HandleNo} (hj : j ≠ h) (r : HandleRec) (t : List (Nat × HandleRec)) :
    Table.get j (Table.insert h r t) = Table.get j t := by
  induction t with
  | nil => simp [Table.insert, Table.get, Ne.symm hj]
  | cons x rest ih =>
    obtain ⟨k, q⟩ := x
    unfold Table.insert
    split
    · simp only [Table.get, ih]
    · simp [Table.get, Ne.symm hj]

@[simp] theorem Table.get_put_same (h : HandleNo) (r : HandleRec) (t : List (Nat × HandleRec)) :
    Table.get h (Table.put h r t) = r := by
  unfold Table.put
  split
  · rename_i hr; rw [Table.get_remove_same, hr]
  · exact Table.get_insert_remove_same h r t

theorem Table.get_put_ne {h j : HandleNo} (hj : j ≠ h) (r : HandleRec) (t : List (Nat × HandleRec)) :
    Table.get j (Table.put h r t) = Table.get j t := by
  unfold Table.put
  split
  · exact Table.get_remove_ne hj t
  · rw [Table.get_insert_ne hj, Table.get_remove_ne hj]

theorem Table.wfFrom_mono {a b : Nat} (hab : a ≤ b) {t : List (Nat × HandleRec)}
    (hw : Table.wfFrom b t = true) : Table.wfFrom a t = true := by
  cases t with
  | nil => rfl
  | cons x rest =>
    obtain ⟨k, q⟩ := x
    simp only [Table.wfFrom, Bool.and_eq_true, decide_eq_true_eq] at *
    obtain ⟨⟨h1, h2⟩, h3⟩ := hw
    exact ⟨⟨by omega, h2⟩, h3⟩

theorem Table.wfFrom_remove (h : HandleNo) {low : Nat} {t : List (Nat × HandleRec)}
    (hw : Table.wfFrom low t = true) : Table.wfFrom low (Table.remove h t) = true := by
  induction t generalizing low with
  | nil => rfl
  | cons x rest ih =>
    obtain ⟨k, q⟩ := x
    simp only [Table.wfFrom, Bool.and_eq_true, decide_eq_true_eq] at hw
    obtain ⟨⟨h1, h2⟩, h3⟩ := hw
    unfold Table.remove
    split
    · exact Table.wfFrom_mono (by omega) (ih h3)
    · simp only [Table.wfFrom, Bool.and_eq_true, decide_eq_true_eq]
      exact ⟨⟨h1, h2⟩, ih h3⟩

theorem Table.wfFrom_insert (h : HandleNo) (r : HandleRec) (hr : r ≠ .initial) {low : Nat}
    (hl : low ≤ h) {t : List (Nat × HandleRec)} (hw : Table.wfFrom low t = true)
    (hn : Table.remove h t = t) : Table.wfFrom low (Table.insert h r t) = true := by
  induction t generalizing low with
  | nil => simp [Table.insert, Table.wfFrom, hl, hr]
  | cons x rest ih =>
    obtain ⟨k, q⟩ := x
    simp only [Table.wfFrom, Bool.and_eq_true, decide_eq_true_eq] at hw
    obtain ⟨⟨h1, h2⟩, h3⟩ := hw
    have hlen : ∀ u : List (Nat × HandleRec), (Table.remove h u).length ≤ u.length := by
      intro u
      induction u with
      | nil => simp [Table.remove]
      | cons y u ih2 => obtain ⟨k', q'⟩ := y; unfold Table.remove; split <;> simp <;> omega
    unfold Table.remove at hn
    split at hn
    · have := hlen rest
      rw [hn] at this
      simp at this
    · rename_i hk
      simp only [List.cons.injEq, true_and] at hn
      unfold Table.insert
      split
      · simp only [Table.wfFrom, Bool.and_eq_true, decide_eq_true_eq]
        exact ⟨⟨h1, h2⟩, ih (by omega) h3 hn⟩
      · simp only [Table.wfFrom, Bool.and_eq_true, decide_eq_true_eq]
        exact ⟨⟨hl, hr⟩, ⟨⟨by omega, h2⟩, h3⟩⟩

theorem Table.remove_remove (h : HandleNo) (t : List (Nat × HandleRec)) :
    Table.remove h (Table.remove h t) = Table.remove h t := by
  induction t with
  | nil => rfl
  | cons x rest ih =>
    obtain ⟨k, q⟩ := x
    by_cases hk : k = h
    · simp [Table.remove, hk, ih]
    · simp [Table.remove, hk, ih]

/-- A write keeps the canonical form of the handle table. -/
theorem Table.wf_put (h : HandleNo) (r : HandleRec) {t : List (Nat × HandleRec)} (hw : Table.wf t = true) :
    Table.wf (Table.put h r t) = true := by
  unfold Table.put
  split
  · exact Table.wfFrom_remove h hw
  · exact Table.wfFrom_insert h r (by assumption) (Nat.zero_le h) (Table.wfFrom_remove h hw)
      (Table.remove_remove h t)

theorem Table.wf_nil : Table.wf [] = true := rfl

/-! ### Records as the pool engine reads them -/

theorem record_ready {s : State} (hd : s.device = .ready) (h : HandleNo) :
    s.record h = Table.get h s.handles := by
  simp [State.record, hd]

theorem writeRecord_record_ne {s : State} {h j : HandleNo} (hj : j ≠ h) (r : HandleRec) :
    (s.writeRecord h r).record j = s.record j := by
  simp only [State.record, State.writeRecord, Table.get_put_ne hj]

theorem writeRecord_record_self {s : State} (hd : s.device = .ready) (h : HandleNo) (r : HandleRec) :
    (s.writeRecord h r).record h = { r with verifies := true } := by
  simp [State.record, State.writeRecord, hd]

theorem writeRecord_record {s : State} (hd : s.device = .ready) (h j : HandleNo) (r : HandleRec) :
    (s.writeRecord h r).record j = if j = h then { r with verifies := true } else s.record j := by
  split
  · subst_vars; exact writeRecord_record_self hd _ _
  · exact writeRecord_record_ne ‹_› _

@[simp] theorem blank_verifies (st : HandleState) (g : BitVec 4) :
    { HandleRec.blank st g with verifies := true } = HandleRec.blank st g := rfl

@[simp] theorem setHold_verifies (r : HandleRec) (p : Port) (n : Nat) :
    (r.setHold p n).verifies = r.verifies := rfl

end Sys2Proof.Machine
end

