-- ==== Sys2Proof/Laws/Ops.lean ====
section
/-! SUPPORT. One lemma for each shared operation: the relation of Safety.lean it meets, which says everything it
can do. -/

namespace Sys2Proof.Machine

/-! ### changeAt and Becomes -/

@[simp] theorem changeAt_self {α β : Type} [DecidableEq α] (f : α → β) (i : α) (b : β) :
    changeAt f i b i = b := by simp [changeAt]

theorem changeAt_ne {α β : Type} [DecidableEq α] (f : α → β) {i j : α} (h : j ≠ i) (b : β) :
    changeAt f i b j = f j := by simp [changeAt, h]

@[simp] theorem changeAt_id {α β : Type} [DecidableEq α] (f : α → β) (i : α) : changeAt f i (f i) = f := by
  funext j; unfold changeAt; split <;> simp_all

theorem SameDevice.refl (s : State) : SameDevice s s := ⟨rfl, rfl, rfl, rfl, rfl, rfl⟩

theorem SameDevice.trans {a b c : State} (h : SameDevice a b) (h' : SameDevice b c) : SameDevice a c :=
  ⟨h'.1.trans h.1, h'.2.1.trans h.2.1, h'.2.2.1.trans h.2.2.1, h'.2.2.2.1.trans h.2.2.2.1,
    h'.2.2.2.2.1.trans h.2.2.2.2.1, h'.2.2.2.2.2.trans h.2.2.2.2.2⟩

theorem Becomes.refl (s : State) : Becomes s s :=
  ⟨SameDevice.refl s, fun _ => rfl, fun _ => rfl, fun _ => rfl, fun _ => rfl, rfl, rfl, rfl⟩

section
variable {s t : State} {re : HandleNo → HandleRec} {po : PoolId → PoolRec} {me : Port → Member}
  {wi : Port → Window} {le : Lease} {fc : Nat} {lg : Port}

theorem Becomes.same (b : Becomes s t re po me wi le fc lg) : SameDevice s t := b.1
theorem Becomes.device (b : Becomes s t re po me wi le fc lg) : t.device = s.device := b.1.1
theorem Becomes.record (b : Becomes s t re po me wi le fc lg) (h : HandleNo) : t.record h = re h := b.2.1 h
theorem Becomes.pool (b : Becomes s t re po me wi le fc lg) (k : PoolId) : t.pool k = po k := b.2.2.1 k
theorem Becomes.member (b : Becomes s t re po me wi le fc lg) (q : Port) : t.member q = me q := b.2.2.2.1 q
theorem Becomes.window (b : Becomes s t re po me wi le fc lg) (q : Port) : t.window q = wi q :=
  b.2.2.2.2.1 q
theorem Becomes.lease (b : Becomes s t re po me wi le fc lg) : t.lease = le := b.2.2.2.2.2.1
theorem Becomes.faultCount (b : Becomes s t re po me wi le fc lg) : t.faultCount = fc := b.2.2.2.2.2.2.1
theorem Becomes.lastGranted (b : Becomes s t re po me wi le fc lg) : t.lastGranted = lg := b.2.2.2.2.2.2.2

end

/-! ### Windows: results, causes, taking a command -/

theorem answer_meets (s : State) (p : Port) (e : Entry) (st : Status) (d : Data) :
    Answered s (s.answer p e st d) p e st d := by
  refine ⟨⟨rfl, rfl, rfl, rfl, rfl, rfl⟩, fun _ => rfl, fun _ => rfl, fun _ => rfl, fun q => ?_, rfl, rfl, rfl⟩
  simp only [answer_window, changeAt, Window.posted]

theorem taken_meets (s : State) (p : Port) : TakenOut s (s.taken p) p := by
  refine ⟨⟨rfl, rfl, rfl, rfl, rfl, rfl⟩, fun _ => rfl, fun _ => rfl, fun _ => rfl, fun q => ?_, rfl, rfl, rfl⟩
  by_cases hq : q = p
  · subst hq; simp [Window.dequeued]
  · rw [taken_window_ne _ hq, changeAt_ne _ hq]

theorem raise_meets (s : State) (p : Port) (c : Cause) :
    Becomes s (s.raise p c) (window := changeAt s.window p ((s.window p).raised c)) := by
  refine ⟨⟨rfl, rfl, rfl, rfl, rfl, rfl⟩, fun _ => rfl, fun _ => rfl, fun _ => rfl, fun q => ?_, rfl, rfl, rfl⟩
  simp only [raise_window, changeAt]

theorem raiseOnline_meets (s : State) (c : Cause) (ps : List Port) (hn : ps.Nodup) :
    Becomes s (s.raiseOnline c ps) (window := fun x =>
      if x ∈ ps ∧ (s.member x).membership = .online then (s.window x).raised c else s.window x) := by
  induction ps generalizing s with
  | nil => simpa [State.raiseOnline] using Becomes.refl s
  | cons p ps ih =>
    simp only [List.nodup_cons] at hn
    have key : ∀ u : State, SameDevice s u → (∀ h, u.record h = s.record h) → (∀ k, u.pool k = s.pool k) →
        (∀ q, u.member q = s.member q) → u.lease = s.lease → u.faultCount = s.faultCount →
        u.lastGranted = s.lastGranted →
        (∀ x, u.window x = if x = p ∧ (s.member p).membership = .online then (s.window p).raised c
          else s.window x) →
        Becomes s (u.raiseOnline c ps) (window := fun x =>
          if x ∈ p :: ps ∧ (s.member x).membership = .online then (s.window x).raised c
          else s.window x) := by
      intro u h1 h2 h3 h4 h5 h6 h7 h8
      have b := ih u hn.2
      refine ⟨h1.trans b.same, fun h => (b.record h).trans (h2 h), fun k => (b.pool k).trans (h3 k),
        fun q => (b.member q).trans (h4 q), fun x => ?_, b.lease.trans h5, b.faultCount.trans h6,
        b.lastGranted.trans h7⟩
      rw [b.window, h4, h8]
      by_cases hx : x = p
      · subst hx; simp [hn.1]
      · simp [hx]
    by_cases ho : (s.member p).membership = .online
    · have : s.raiseOnline c (p :: ps) = (s.raise p c).raiseOnline c ps := by
        simp [State.raiseOnline, State.isOnline, ho]
      rw [this]
      refine key (s.raise p c) ⟨rfl, rfl, rfl, rfl, rfl, rfl⟩ (fun _ => rfl) (fun _ => rfl) (fun _ => rfl) rfl rfl
        rfl (fun x => ?_)
      rw [raise_window]; simp [ho]
    · have : s.raiseOnline c (p :: ps) = s.raiseOnline c ps := by
        simp [State.raiseOnline, State.isOnline, ho]
      rw [this]
      exact key s (SameDevice.refl s) (fun _ => rfl) (fun _ => rfl) (fun _ => rfl) rfl rfl rfl
        (fun x => by simp [ho])

theorem allPorts_mem (p : Port) : p ∈ allPorts := by
  revert p; decide

theorem allPools_mem (k : PoolId) : k ∈ allPools := by
  revert k; decide

theorem raiseFault_meets (s : State) : FaultAtOnline s (s.raiseOnline .fault allPorts) := by
  have b := raiseOnline_meets s .fault allPorts (by decide)
  simp only [allPorts_mem, true_and] at b
  exact b

theorem raisePeer_meets (s : State) (p : Port) :
    Becomes s (s.raiseOnline .peer (allPorts.filter fun q => decide (q ≠ p))) (window := fun x =>
      if x ≠ p ∧ (s.member x).membership = .online then (s.window x).raised .peer else s.window x) := by
  have b := raiseOnline_meets s .peer (allPorts.filter fun q => decide (q ≠ p))
    (List.Nodup.filter _ (by decide))
  simp only [List.mem_filter, allPorts_mem, true_and, decide_eq_true_eq] at b
  exact b

/-- Where the arbiter offers nothing from the port, the event changes nothing. -/
theorem takeAny_none {s : State} {p : Port} (h : s.offered p = none) (acc : BitVec 6 → Bool)
    (body : Entry → State → State) : s.takeAny p acc body = s := by
  simp [State.takeAny, h]

theorem takeAny_some {s : State} {p : Port} {e : Entry} (h : s.offered p = some e) (acc : BitVec 6 → Bool)
    (body : Entry → State → State) :
    s.takeAny p acc body = if acc e.code then body e (s.taken p) else s := by
  simp [State.takeAny, h]

theorem takeCommand_none {s : State} {p : Port} (h : s.offered p = none) (acc : BitVec 6 → Bool)
    (body : Entry → State → State) : s.takeCommand p acc body = s := takeAny_none h _ _

theorem takeCommand_other {s : State} {p : Port} {e : Entry} (h : s.offered p = some e)
    {acc : BitVec 6 → Bool} (ha : acc e.code = false) (body : Entry → State → State) :
    s.takeCommand p acc body = s := by
  simp [State.takeCommand, takeAny_some h, ha]

theorem takeCommand_offline {s : State} {p : Port} {e : Entry} (h : s.offered p = some e)
    {acc : BitVec 6 → Bool} (ha : acc e.code = true) (ho : (s.member p).membership = .offline)
    (body : Entry → State → State) :
    s.takeCommand p acc body = (s.taken p).answer p e .notJoined := by
  simp [State.takeCommand, takeAny_some h, ha, ho]

theorem takeCommand_online {s : State} {p : Port} {e : Entry} (h : s.offered p = some e)
    {acc : BitVec 6 → Bool} (ha : acc e.code = true) (ho : (s.member p).membership = .online)
    (body : Entry → State → State) : s.takeCommand p acc body = body e (s.taken p) := by
  simp [State.takeCommand, takeAny_some h, ha, ho]

/-- A command of code c taken from an ONLINE port runs its body on the state with the entry taken out. -/
theorem takeCommand_takes {s : State} {p : Port} {c : BitVec 6} {e : Entry} (h : Takes s p c e)
    (body : Entry → State → State) : s.takeCommand p (· == c) body = body e (s.taken p) :=
  takeCommand_online h.1 (by simp [h.2.1]) h.2.2 body

theorem offered_some {s : State} {p : Port} {e : Entry} (h : s.offered p = some e) :
    s.device = .ready ∧ s.arbiterChoice = some p ∧ (s.window p).queue.head? = some e := by
  unfold State.offered at h
  split at h
  · exact ⟨by simp_all, by simp_all, h⟩
  · cases h

theorem Takes.ready {s : State} {p : Port} {c : BitVec 6} {e : Entry} (h : Takes s p c e) :
    s.device = .ready := (offered_some h.1).1

/-- A body that only answers makes the whole event only answer. -/
theorem answersOnly_of_taken {c : Instr} {s : State} {p : Port} {e : Entry} {st : Status} {d : Data}
    (h : exec c s = .next ((s.taken p).answer p e st d)) : AnswersOnly c s p e st d := by
  refine ⟨_, h, ⟨rfl, rfl, rfl, rfl, rfl, rfl⟩, fun _ => rfl, fun _ => rfl, fun _ => rfl, fun q => ?_, rfl, rfl, rfl⟩
  by_cases hq : q = p
  · subst hq; simp [Window.dequeued, Window.posted]
  · rw [answer_window_ne _ _ _ _ hq, taken_window_ne _ hq, changeAt_ne _ hq]

/-- A command that changes the windows only by being taken and answered. -/
theorem becomes_answered {s u : State} {p : Port} {re : HandleNo → HandleRec} {po : PoolId → PoolRec}
    {me : Port → Member} {le : Lease} {fc : Nat}
    (b : Becomes (s.taken p) u re po me (s.taken p).window le fc) (e : Entry) (st : Status) (d : Data) :
    Becomes s (u.answer p e st d) re po me
      (changeAt s.window p ((s.window p).dequeued.posted e st d)) le fc p := by
  refine ⟨b.same, b.record, b.pool, b.member, fun q => ?_, b.lease, b.faultCount, b.lastGranted⟩
  by_cases hq : q = p
  · subst hq
    rw [answer_window_self, b.window]
    simp [Window.dequeued, Window.posted]
  · rw [answer_window_ne _ _ _ _ hq, b.window, taken_window_ne _ hq, changeAt_ne _ hq]

theorem updPool_meets (s : State) (k : PoolId) (f : PoolRec → PoolRec) :
    Becomes s (s.updPool k f) (pool := changeAt s.pool k (f (s.pool k))) := by
  refine ⟨⟨rfl, rfl, rfl, rfl, rfl, rfl⟩, fun _ => rfl, fun j => ?_, fun _ => rfl, fun _ => rfl, rfl, rfl, rfl⟩
  rw [updPool_pool]; rfl

theorem updMember_meets (s : State) (p : Port) (f : Member → Member) :
    Becomes s (s.updMember p f) (member := changeAt s.member p (f (s.member p))) := by
  refine ⟨⟨rfl, rfl, rfl, rfl, rfl, rfl⟩, fun _ => rfl, fun _ => rfl, fun q => ?_, fun _ => rfl, rfl, rfl, rfl⟩
  rw [updMember_member]; rfl

theorem updWindow_meets (s : State) (p : Port) (f : Window → Window) :
    Becomes s (s.updWindow p f) (window := changeAt s.window p (f (s.window p))) := by
  refine ⟨⟨rfl, rfl, rfl, rfl, rfl, rfl⟩, fun _ => rfl, fun _ => rfl, fun _ => rfl, fun q => ?_, rfl, rfl, rfl⟩
  rw [updWindow_window]; rfl

theorem writeRecord_meets {s : State} (hd : s.device = .ready) (h : HandleNo) {r : HandleRec}
    (hr : r.verifies = true) : Becomes s (s.writeRecord h r) (record := changeAt s.record h r) := by
  refine ⟨⟨rfl, rfl, rfl, rfl, rfl, rfl⟩, fun j => ?_, fun _ => rfl, fun _ => rfl, fun _ => rfl, rfl, rfl, rfl⟩
  rw [writeRecord_record hd]
  simp only [changeAt, ← hr]

/-! ### Watches and pushes -/

theorem testWatch_eq (s : State) (k : PoolId) (p : Port) :
    s.testWatch k p = if (s.pool k).firesAt p (s.pool k).depth then s.fireWatch k p else s := by
  unfold State.testWatch PoolRec.firesAt
  cases h : (s.pool k).watches[p] <;> simp

theorem fireWatch_meets (s : State) (k : PoolId) (p : Port) :
    Becomes s (s.fireWatch k p)
      (pool := changeAt s.pool k { s.pool k with watches := (s.pool k).watches.set p.val none p.isLt })
      (window := changeAt s.window p ((s.window p).fired k)) := by
  refine ⟨⟨rfl, rfl, rfl, rfl, rfl, rfl⟩, fun _ => rfl, fun j => ?_, fun _ => rfl, fun q => ?_, rfl, rfl, rfl⟩
  · by_cases hj : j = k
    · subst hj; simp
    · rw [fireWatch_pool_ne _ _ hj, changeAt_ne _ hj]
  · by_cases hq : q = p
    · subst hq; simp
    · rw [fireWatch_window_ne _ _ hq, changeAt_ne _ hq]

/-- The watches of the pool after the tests of R30 step 1. -/
theorem testWatches_meets (s : State) (k : PoolId) :
    Becomes s (s.testWatches k)
      (pool := changeAt s.pool k
        { s.pool k with
          watches := Vector.ofFn fun p : Port =>
            if (s.pool k).firesAt p (s.pool k).depth then none else (s.pool k).watches[p] })
      (window := fun x =>
        if (s.pool k).firesAt x (s.pool k).depth then (s.window x).fired k else s.window x) := by
  have step : ∀ (u : State) (f : Port → Bool) (p : Port), f p = false →
      Becomes s u
        (pool := changeAt s.pool k
          { s.pool k with
            watches := Vector.ofFn fun x : Port =>
              if f x && (s.pool k).firesAt x (s.pool k).depth then none else (s.pool k).watches[x] })
        (window := fun x =>
          if f x && (s.pool k).firesAt x (s.pool k).depth then (s.window x).fired k else s.window x) →
      Becomes s (u.testWatch k p)
        (pool := changeAt s.pool k
          { s.pool k with
            watches := Vector.ofFn fun x : Port =>
              if (f x || decide (x = p)) && (s.pool k).firesAt x (s.pool k).depth then none
              else (s.pool k).watches[x] })
        (window := fun x =>
          if (f x || decide (x = p)) && (s.pool k).firesAt x (s.pool k).depth then (s.window x).fired k
          else s.window x) := by
    intro u f p hf b
    have hu : u.pool k = { s.pool k with
            watches := Vector.ofFn fun x : Port =>
              if f x && (s.pool k).firesAt x (s.pool k).depth then none else (s.pool k).watches[x] } := by
      rw [b.pool]; simp
    have hfire : (u.pool k).firesAt p (u.pool k).depth = (s.pool k).firesAt p (s.pool k).depth := by
      rw [hu]; simp [PoolRec.firesAt, PoolRec.depth, hf]; rfl
    rw [testWatch_eq, hfire]
    by_cases hx : (s.pool k).firesAt p (s.pool k).depth
    · rw [if_pos hx]
      have c := fireWatch_meets u k p
      refine ⟨b.same.trans c.same, fun h => (c.record h).trans (b.record h), fun j => ?_,
        fun q => (c.member q).trans (b.member q), fun q => ?_, c.lease.trans b.lease,
        c.faultCount.trans b.faultCount, c.lastGranted.trans b.lastGranted⟩
      · rw [c.pool]
        by_cases hj : j = k
        · subst hj
          rw [changeAt_self, changeAt_self, hu]
          refine congrArg (fun w => { s.pool j with watches := w }) (Vector.ext fun i hi => ?_)
          simp only [Vector.getElem_set, Vector.getElem_ofFn]
          by_cases hi' : p.val = i
          · have : (⟨i, hi⟩ : Port) = p := Fin.ext hi'.symm
            simp [hi', this, hx]
          · have : ¬ (⟨i, hi⟩ : Port) = p := fun e => hi' (by rw [← e])
            simp [hi', this]
        · rw [changeAt_ne _ hj, changeAt_ne _ hj, b.pool, changeAt_ne _ hj]
      · rw [c.window]
        by_cases hq : q = p
        · subst hq; rw [changeAt_self, b.window]; simp [hf, hx]
        · rw [changeAt_ne _ hq, b.window]; simp [hq]
    · rw [if_neg hx]
      refine ⟨b.same, b.record, fun j => ?_, b.member, fun q => ?_, b.lease, b.faultCount, b.lastGranted⟩
      · rw [b.pool]
        refine congrFun (congrArg (fun w => changeAt s.pool k { s.pool k with watches := Vector.ofFn w })
          (funext fun x => ?_)) j
        by_cases hq : x = p
        · subst hq; simp [hx]
        · simp [hq]
      · rw [b.window]
        by_cases hq : q = p
        · subst hq; simp [hx]
        · simp [hq]
  have h0 : Becomes s s
        (pool := changeAt s.pool k
          { s.pool k with
            watches := Vector.ofFn fun x : Port =>
              if (fun _ => false : Port → Bool) x && (s.pool k).firesAt x (s.pool k).depth then none
              else (s.pool k).watches[x] })
        (window := fun x =>
          if (fun _ => false : Port → Bool) x && (s.pool k).firesAt x (s.pool k).depth then
            (s.window x).fired k else s.window x) := by
    have : (Vector.ofFn fun x : Port => (s.pool k).watches[x]) = (s.pool k).watches := by
      ext i hi; simp
    simpa [this] using Becomes.refl s
  have h1 := step s _ 0 rfl h0
  have h2 := step _ _ 1 (by decide) h1
  have h3 := step _ _ 2 (by decide) h2
  have h4 := step _ _ 3 (by decide) h3
  have all : ∀ x : Port, ((((false || decide (x = 0)) || decide (x = 1)) || decide (x = 2)) || decide (x = 3))
      = true := by decide
  simp only [all, Bool.true_and] at h4
  exact h4

/-! ### Teardown and drain completion -/

theorem unassignAll_frame (s : State) (hs : List HandleNo) :
    SameDevice s (s.unassignAll hs) ∧ (s.unassignAll hs).pools = s.pools
      ∧ (s.unassignAll hs).members = s.members ∧ (s.unassignAll hs).windows = s.windows
      ∧ (s.unassignAll hs).lease = s.lease ∧ (s.unassignAll hs).faultCount = s.faultCount
      ∧ (s.unassignAll hs).lastGranted = s.lastGranted := by
  induction hs generalizing s with
  | nil => exact ⟨SameDevice.refl s, rfl, rfl, rfl, rfl, rfl, rfl⟩
  | cons h hs ih => exact ih (s.writeRecord h (.blank .unassigned (s.record h).gen))

theorem unassignAll_record {s : State} (hd : s.device = .ready) (hs : List HandleNo) (h : HandleNo) :
    (s.unassignAll hs).record h = if h ∈ hs then .blank .unassigned (s.record h).gen else s.record h := by
  induction hs generalizing s with
  | nil => simp [State.unassignAll]
  | cons j hs ih =>
    have hd' : (s.writeRecord j (.blank .unassigned (s.record j).gen)).device = .ready := hd
    simp only [State.unassignAll]
    rw [ih hd', writeRecord_record hd]
    by_cases hj : h = j
    · subst hj; simp [HandleRec.blank]
    · simp [hj]

theorem mem_range (q : PoolRec) (h : HandleNo) : h ∈ q.range ↔ q.spans h := by
  simp [PoolRec.range, PoolRec.spans, List.mem_range'_1]

theorem teardown_meets {s : State} (hd : s.device = .ready) (k : PoolId) : TornDown s (s.teardown k) k := by
  obtain ⟨f1, f2, f3, f4, f5, f6, f7⟩ := unassignAll_frame s (s.pool k).range
  have hrec : ∀ h, (s.teardown k).record h
      = if h ∈ (s.pool k).range then .blank .unassigned (s.record h).gen else s.record h := by
    intro h
    rw [← unassignAll_record hd]
    unfold State.teardown
    split <;> rfl
  refine ⟨fun h hh => ?_, fun h hh => ?_, ?_⟩
  · rw [hrec, if_pos ((mem_range _ _).2 hh)]
  · rw [hrec, if_neg (fun c => hh ((mem_range _ _).1 c))]
  · have hp : ∀ j, ((s.unassignAll (s.pool k).range).updPool k fun _ => .unconfigured).pool j
        = changeAt s.pool k .unconfigured j := by
      intro j
      rw [updPool_pool]
      simp only [changeAt]
      split
      · rfl
      · unfold State.pool at f2 ⊢; rw [f2]
    refine ⟨?_, fun _ => rfl, fun j => ?_, fun q => ?_, fun x => ?_, ?_, ?_, ?_⟩
    · unfold State.teardown; split <;> exact f1
    · rw [← hp]; unfold State.teardown; split <;> rfl
    · have : (s.unassignAll (s.pool k).range).member q = s.member q := by simp [State.member, f3]
      rw [← this]; unfold State.teardown; split <;> rfl
    · have : ∀ x, (s.unassignAll (s.pool k).range).window x = s.window x := by
        intro x; simp [State.window, f4]
      unfold State.teardown Window.told
      split
      · rename_i c hc
        rw [hc, raise_window]
        simp only [Option.some.injEq, updPool_window, this]
        by_cases hx : x = c
        · subst hx; simp
        · rw [if_neg hx, if_neg (Ne.symm hx)]
      · rename_i hc
        rw [hc]; simp [this]
    · unfold State.teardown; split <;> exact f5
    · unfold State.teardown; split <;> exact f6
    · unfold State.teardown; split <;> exact f7

theorem drained_iff (q : PoolRec) :
    q.drained = true ↔ q.state = .draining ∧ q.depth + q.retired = q.count := by
  simp [PoolRec.drained]

theorem drainTest_meets {s : State} (hd : s.device = .ready) (k : PoolId) :
    DrainTested s (s.drainTest k) k := by
  unfold DrainTested State.drainTest
  refine ⟨fun h => ?_, fun h => ?_⟩
  · rw [if_pos ((drained_iff _).2 h)]; exact teardown_meets hd k
  · rw [if_neg (fun c => h ((drained_iff _).1 c))]

theorem DrainTested.same {s t : State} {k : PoolId} (h : DrainTested s t k) : SameDevice s t := by
  by_cases c : (s.pool k).state = .draining ∧ (s.pool k).depth + (s.pool k).retired = (s.pool k).count
  · exact (h.1 c).2.2.same
  · rw [h.2 c]; exact SameDevice.refl _

/-! ### Disposal -/

theorem grantTo_meets {s : State} (hd : s.device = .ready) (k : PoolId) (h : HandleNo) (g : BitVec 4)
    (v : WaitEntry) (rest : List WaitEntry) :
    Becomes s (s.grantTo k h g v rest)
      (record := changeAt s.record h ((HandleRec.blank (.inUse k) g).setHold v.port 1))
      (pool := changeAt s.pool k { (s.pool k).adjustCharge h v.port (· + 1) with waitList := rest })
      (window := changeAt s.window v.port
        ((s.window v.port).deferred v .ok { res1 := mkToken g h })) := by
  unfold State.grantTo
  refine ⟨⟨by simp, by simp, by simp, by simp, by simp⟩, fun j => ?_, fun j => ?_, fun _ => by simp,
    fun q => ?_, by simp, by simp, by simp⟩
  · simp only [postDeferred_record, updPool_record, raiseCharge_record]
    rw [writeRecord_record hd]; rfl
  · by_cases hj : j = k
    · subst hj; simp
    · simp [updPool_pool_ne _ _ hj, raiseCharge_pool_ne _ _ _ hj, changeAt_ne _ hj]
  · by_cases hq : q = v.port
    · subst hq; simp
    · simp [postDeferred_window_ne _ _ _ _ hq, changeAt_ne _ hq]

/-- A push before its drain test (R30). -/
theorem pushTested_meets {s : State} (hd : s.device = .ready) (k : PoolId) (h : HandleNo) (r : HandleRec)
    (hr : r.verifies = true) :
    Becomes s (((s.writeRecord h r).updPool k fun q => { q with stack := h :: q.stack }).testWatches k)
      (record := changeAt s.record h r)
      (pool := changeAt s.pool k ((s.pool k).pushed h))
      (window := fun x => (s.window x).notified (s.pool k) k x) := by
  have b := testWatches_meets ((s.writeRecord h r).updPool k fun q => { q with stack := h :: q.stack }) k
  simp only [updPool_pool_self, writeRecord_pool] at b
  refine ⟨b.same, fun j => ?_, fun j => ?_, b.member, fun x => ?_, b.lease, b.faultCount, b.lastGranted⟩
  · rw [b.record, updPool_record, writeRecord_record hd]
    have : { r with verifies := true } = r := by rw [← hr]
    rw [this]; rfl
  · rw [b.pool]
    by_cases hj : j = k
    · subst hj; simp [PoolRec.pushed, PoolRec.depth, PoolRec.firesAt]; rfl
    · rw [changeAt_ne _ hj, changeAt_ne _ hj, updPool_pool_ne _ _ hj, writeRecord_pool]
  · rw [b.window]; simp [Window.notified, PoolRec.depth, PoolRec.firesAt]; rfl

theorem dispose_grants {s : State} {h : HandleNo} {k : PoolId} {v : WaitEntry} {rest : List WaitEntry}
    (hk : (s.record h).state.pool? = some k) (hw : (s.pool k).waitList = v :: rest) :
    s.dispose h = (s.grantTo k h ((s.record h).gen + 1) v rest, .granted v.port) := by
  unfold State.dispose
  rw [hk]
  dsimp only
  rw [hw]

theorem dispose_pushes {s : State} {h : HandleNo} {k : PoolId}
    (hk : (s.record h).state.pool? = some k) (hw : (s.pool k).waitList = []) :
    s.dispose h = ((s.writeRecord h (.blank (.free k) ((s.record h).gen + 1))).push k h, .free) := by
  unfold State.dispose
  rw [hk]
  dsimp only
  rw [hw]

theorem dispose_nowhere {s : State} {h : HandleNo} (hk : (s.record h).state.pool? = none) :
    s.dispose h = (s, .notDisposed) := by
  unfold State.dispose
  rw [hk]

/-- Disposal does what R9 and R30 say. -/
theorem dispose_meets {s : State} (hd : s.device = .ready) (h : HandleNo) :
    Disposes s (s.dispose h).1 h (s.dispose h).2 := by
  refine ⟨fun k v rest hk hw => ?_, fun k hk hw => ?_, fun hk => ?_⟩
  · rw [dispose_grants hk hw]
    dsimp only
    exact ⟨rfl, grantTo_meets hd k h ((s.record h).gen + 1) v rest⟩
  · rw [dispose_pushes hk hw]
    dsimp only
    have b := pushTested_meets hd k h (.blank (.free k) ((s.record h).gen + 1)) rfl
    exact ⟨rfl, _, b, drainTest_meets (b.device.trans hd) k⟩
  · rw [dispose_nowhere hk]; exact ⟨rfl, rfl⟩

theorem disposeIfDone_meets {s : State} (hd : s.device = .ready) (h : HandleNo) :
    DisposesIfDone s (s.disposeIfDone h).1 h (s.disposeIfDone h).2 := by
  refine ⟨fun hr => ?_, fun hr => ?_⟩
  · rw [State.disposeIfDone, if_pos hr]; exact dispose_meets hd h
  · rw [State.disposeIfDone, if_neg hr]; exact ⟨rfl, rfl⟩

theorem Disposes.same {s t : State} {h : HandleNo} {how : Disposition} (d : Disposes s t h how) :
    SameDevice s t := by
  rcases hk : (s.record h).state.pool? with _ | k
  · rw [(d.2.2 hk).2]; exact SameDevice.refl s
  · rcases hw : (s.pool k).waitList with _ | ⟨v, rest⟩
    · obtain ⟨-, u, b, c⟩ := d.2.1 k hk hw
      exact b.same.trans c.same
    · exact (d.1 k v rest hk hw).2.same

theorem DisposesIfDone.same {s t : State} {h : HandleNo} {how : Disposition} (d : DisposesIfDone s t h how) :
    SameDevice s t := by
  by_cases hr : (s.record h).refs = 0
  · exact (d.1 hr).same
  · rw [(d.2 hr).2]; exact SameDevice.refl s

/-! ### The check-fault path -/

theorem checkFault_meets {s : State} (hd : s.device = .ready) (h : HandleNo) (popped : Bool) :
    FaultPath s (s.checkFault h popped) h popped := by
  refine ⟨fun hp => ?_, fun k hp => ?_⟩
  · have : s.checkFault h popped = (s.writeRecord h (.blank .unassigned (s.record h).gen)).countFault := by
      simp [State.checkFault, hp]
    rw [this]
    refine ⟨⟨rfl, rfl, rfl, rfl, rfl, rfl⟩, fun j => ?_, fun _ => by simp, fun _ => by simp, fun _ => by simp,
      by simp, by simp [State.countFault], by simp⟩
    rw [countFault_record, writeRecord_record hd]; rfl
  · have base : ∀ f : PoolRec → PoolRec, f (s.pool k) = (s.pool k).afterFault h (s.record h).state popped →
        Becomes s
          ((((s.writeRecord h (.blank (.retired k .check) ((s.record h).gen + 1))).removeDeliveries
            h).countFault).updPool k f)
          (record := changeAt s.record h (.blank (.retired k .check) ((s.record h).gen + 1)))
          (pool := changeAt s.pool k ((s.pool k).afterFault h (s.record h).state popped))
          (member := fun x => { s.member x with inbound := (s.member x).inbound.without h })
          (faultCount := min 255 (s.faultCount + 1)) := by
      intro f hf
      refine ⟨⟨rfl, rfl, rfl, rfl, rfl, rfl⟩, fun j => ?_, fun j => ?_, fun x => ?_, fun _ => by simp, by simp,
        by simp [State.countFault, State.removeDeliveries, State.updPool], by simp⟩
      · rw [updPool_record, countFault_record, removeDeliveries_record, writeRecord_record hd]; rfl
      · by_cases hj : j = k
        · subst hj; simp [hf]
        · simp [updPool_pool_ne _ _ hj, changeAt_ne _ hj]
      · simp
    have hid : ∀ u : State, u.updPool k id = u := by
      intro u
      simp [State.updPool, State.pool]
    cases popped with
    | true =>
      have e : s.checkFault h true
          = (((s.writeRecord h (.blank (.retired k .check) ((s.record h).gen + 1))).removeDeliveries
              h).countFault).updPool k fun q => { q with retired := q.retired + 1 } := by
        simp [State.checkFault, hp]
      refine ⟨_, base (fun q => { q with retired := q.retired + 1 }) (by simp [PoolRec.afterFault]), ?_, ?_⟩
      · rintro ⟨hc, -⟩; cases hc
      · intro _; rw [e]
    | false =>
      by_cases hs : h ∈ (s.pool k).stack
      · have e : s.checkFault h false
            = (((s.writeRecord h (.blank (.retired k .check) ((s.record h).gen + 1))).removeDeliveries
                h).countFault).updPool k
                fun q => { q with retired := q.retired + 1, stack := q.stack.erase h } := by
          simp [State.checkFault, hp, hs]
        refine ⟨_, base (fun q => { q with retired := q.retired + 1, stack := q.stack.erase h })
          (by simp [PoolRec.afterFault, hs]), ?_, ?_⟩
        · rintro ⟨-, hc, -⟩; exact absurd hs hc
        · intro _; rw [e]
      · by_cases hr : (s.record h).state.isRetired = true
        · have e : s.checkFault h false
              = ((s.writeRecord h (.blank (.retired k .check) ((s.record h).gen + 1))).removeDeliveries
                  h).countFault := by
            unfold HandleState.isRetired at hr
            split at hr
            · rename_i hst; simp [State.checkFault, hp, hs, hst]
            all_goals cases hr
          have b := base id (by simp [PoolRec.afterFault, hs, hr])
          rw [hid] at b
          refine ⟨_, b, ?_, ?_⟩
          · rintro ⟨-, -, hc⟩; rw [hr] at hc; cases hc
          · intro _; rw [e]
        · have e : s.checkFault h false
              = ((((s.writeRecord h (.blank (.retired k .check) ((s.record h).gen + 1))).removeDeliveries
                  h).countFault).updPool k PoolRec.lostInUse).drainTest k := by
            unfold HandleState.isRetired at hr
            split at hr
            · exact absurd rfl hr
            all_goals (rename_i hst; simp [State.checkFault, hp, hs, hst])
          have b := base PoolRec.lostInUse (by simp [PoolRec.afterFault, hs, hr, PoolRec.lostInUse])
          refine ⟨_, b, ?_, ?_⟩
          · intro _; rw [e]; exact drainTest_meets (b.device.trans hd) k
          · intro hc; exact absurd ⟨rfl, hs, by simpa using hr⟩ hc

theorem FaultPath.same {s t : State} {h : HandleNo} {popped : Bool} (f : FaultPath s t h popped) :
    SameDevice s t := by
  rcases hp : s.poolOf h with _ | k
  · exact (f.1 hp).same
  · obtain ⟨u, b, c1, c2⟩ := f.2 k hp
    by_cases c : popped = false ∧ h ∉ (s.pool k).stack ∧ (s.record h).state.isRetired = false
    · exact b.same.trans (c1 c).same
    · rw [c2 c]; exact b.same

theorem sweepFault_meets {s : State} (hd : s.device = .ready) (h : HandleNo) :
    ∃ u, FaultPath s u h false ∧ FaultAtOnline u (s.sweepFault h) :=
  ⟨_, checkFault_meets hd h false, raiseFault_meets _⟩

/-- The check-fault answer of a command (R18). -/
theorem answerFault_meets {s : State} (hd : s.device = .ready) (p : Port) (e : Entry) (h : HandleNo) :
    ∃ b u, FaultPath s b h false
      ∧ Becomes b u (window := changeAt b.window p ((b.window p).raised .fault))
      ∧ Answered u (s.answerFault p e h) p e .checkFault { res1 := word h } :=
  ⟨_, _, checkFault_meets hd h false, raise_meets _ _ _, answer_meets _ _ _ _ _⟩

end Sys2Proof.Machine
end

