-- ==== Sys2Proof/Laws/Sweeps.lean ====
section
/-! SUPPORT. What the relations of Safety.lean leave alone, and the relations that the loops meet: the pops of an
ALLOCATE, the drops of a prologue, a reclaim step and a recount step. -/

namespace Sys2Proof.Machine

/-! ### What disposals and the check-fault path leave alone -/

/-- The port records, the lease, the fault count and the arbiter's pointer stand. -/
def KeepsPorts (s t : State) : Prop :=
  SameDevice s t ∧ (∀ q, t.member q = s.member q) ∧ t.lease = s.lease ∧ t.faultCount = s.faultCount
    ∧ t.lastGranted = s.lastGranted

theorem KeepsPorts.refl (s : State) : KeepsPorts s s :=
  ⟨SameDevice.refl s, fun _ => rfl, rfl, rfl, rfl⟩

theorem KeepsPorts.trans {a b c : State} (h : KeepsPorts a b) (h' : KeepsPorts b c) : KeepsPorts a c :=
  ⟨h.1.trans h'.1, fun q => (h'.2.1 q).trans (h.2.1 q), h'.2.2.1.trans h.2.2.1,
    h'.2.2.2.1.trans h.2.2.2.1, h'.2.2.2.2.trans h.2.2.2.2⟩

theorem Becomes.keepsPorts {s t : State} {re : HandleNo → HandleRec} {po : PoolId → PoolRec}
    {wi : Port → Window} (b : Becomes s t (record := re) (pool := po) (window := wi)) : KeepsPorts s t :=
  ⟨b.same, b.member, b.lease, b.faultCount, b.lastGranted⟩

theorem DrainTested.keepsPorts {s t : State} {k : PoolId} (h : DrainTested s t k) : KeepsPorts s t := by
  by_cases c : (s.pool k).state = .draining ∧ (s.pool k).depth + (s.pool k).retired = (s.pool k).count
  · exact (h.1 c).2.2.keepsPorts
  · rw [h.2 c]; exact KeepsPorts.refl _

theorem Disposes.keepsPorts {s t : State} {h : HandleNo} {how : Disposition} (d : Disposes s t h how) :
    KeepsPorts s t := by
  rcases hk : (s.record h).state.pool? with _ | k
  · rw [(d.2.2 hk).2]; exact KeepsPorts.refl s
  · rcases hw : (s.pool k).waitList with _ | ⟨v, rest⟩
    · obtain ⟨-, u, b, c⟩ := d.2.1 k hk hw
      exact b.keepsPorts.trans c.keepsPorts
    · exact (d.1 k v rest hk hw).2.keepsPorts

theorem DisposesIfDone.keepsPorts {s t : State} {h : HandleNo} {how : Disposition}
    (d : DisposesIfDone s t h how) : KeepsPorts s t := by
  by_cases hr : (s.record h).refs = 0
  · exact (d.1 hr).keepsPorts
  · rw [(d.2 hr).2]; exact KeepsPorts.refl s

theorem Inbound.size_without (q : Inbound) (h : HandleNo) : (q.without h).size ≤ q.size := by
  unfold Inbound.without Inbound.size
  exact Nat.add_le_add (List.length_filter_le _ _) (List.length_filter_le _ _)

theorem Inbound.size_tail {q : Inbound} {d : Delivery} {c : DeliveryClass} (h : q.chosen = some (d, c)) :
    q.tail.size + 1 = q.size := by
  unfold Inbound.chosen at h
  unfold Inbound.tail Inbound.size
  split at h
  · rename_i x rest hx; simp [hx]; omega
  · rename_i hx
    split at h
    · rename_i y rest hy; simp [hx, hy]
    · cases h

theorem Inbound.chosen_none {q : Inbound} : q.chosen = none ↔ q = ⟨[], []⟩ := by
  obtain ⟨u, n⟩ := q
  cases u <;> cases n <;> simp [Inbound.chosen]

/-- The check-fault path changes a port record only by removing deliveries of the handle. -/
theorem FaultPath.member {s t : State} {h : HandleNo} {popped : Bool} (f : FaultPath s t h popped)
    (q : Port) : t.member q = s.member q
      ∨ t.member q = { s.member q with inbound := (s.member q).inbound.without h } := by
  rcases hp : s.poolOf h with _ | k
  · exact Or.inl ((f.1 hp).member q)
  · obtain ⟨u, b, c1, c2⟩ := f.2 k hp
    right
    by_cases c : popped = false ∧ h ∉ (s.pool k).stack ∧ (s.record h).state.isRetired = false
    · rw [(c1 c).keepsPorts.2.1, b.member]
    · rw [c2 c, b.member]

theorem FaultPath.lease {s t : State} {h : HandleNo} {popped : Bool} (f : FaultPath s t h popped) :
    t.lease = s.lease := by
  rcases hp : s.poolOf h with _ | k
  · exact (f.1 hp).lease
  · obtain ⟨u, b, c1, c2⟩ := f.2 k hp
    by_cases c : popped = false ∧ h ∉ (s.pool k).stack ∧ (s.record h).state.isRetired = false
    · rw [(c1 c).keepsPorts.2.2.1, b.lease]
    · rw [c2 c, b.lease]

theorem FaultPath.membership {s t : State} {h : HandleNo} {popped : Bool} (f : FaultPath s t h popped)
    (q : Port) : (t.member q).membership = (s.member q).membership := by
  rcases f.member q with e | e <;> rw [e]

theorem FaultPath.size {s t : State} {h : HandleNo} {popped : Bool} (f : FaultPath s t h popped)
    (q : Port) : (t.member q).inbound.size ≤ (s.member q).inbound.size := by
  rcases f.member q with e | e <;> rw [e]
  exact Inbound.size_without _ _

/-! ### Drops and the prologue -/

theorem lowerTransit_meets {s : State} (hd : s.device = .ready) (h : HandleNo)
    (hv : (s.record h).verifies = true) :
    ∃ a, Becomes s a
        (record := changeAt s.record h { s.record h with transit := (s.record h).transit - 1 })
      ∧ DisposesIfDone a (s.lowerTransit h).1 h (s.lowerTransit h).2 := by
  refine ⟨s.writeRecord h { s.record h with transit := (s.record h).transit - 1 }, ?_, ?_⟩
  · refine ⟨⟨rfl, rfl, rfl, rfl, rfl, rfl⟩, fun j => ?_, fun _ => rfl, fun _ => rfl, fun _ => rfl, rfl, rfl, rfl⟩
    rw [writeRecord_record hd]
    simp only [changeAt, ← hv]
  · exact disposeIfDone_meets
      (s := s.writeRecord h { s.record h with transit := (s.record h).transit - 1 }) hd h

/-- The drops of a departing port's queue are those of R123, in the order of R67. -/
theorem dropAll_meets (p : Port) (fuel : Nat) (s : State) (hd : s.device = .ready)
    (hf : (s.member p).inbound.size ≤ fuel) :
    Drops p s (State.dropAll p fuel s).1 (State.dropAll p fuel s).2 := by
  induction fuel generalizing s with
  | zero =>
    have h0 : (s.member p).inbound.chosen = none := by
      rcases hc : (s.member p).inbound.chosen with _ | ⟨d, c⟩
      · rfl
      · have := Inbound.size_tail hc; omega
    exact Drops.done s h0
  | succ fuel ih =>
    rcases hc : (s.member p).inbound.chosen with _ | ⟨d, c⟩
    · have e : State.dropAll p (fuel + 1) s = (s, 0) := by simp [State.dropAll, hc]
      rw [e]; exact Drops.done s hc
    · have hsz := Inbound.size_tail hc
      by_cases hv : (s.record (tokenHandle d.token)).verifies = true
      · have e : State.dropAll p (fuel + 1) s
            = ((State.dropAll p fuel ((s.popDelivery p).lowerTransit (tokenHandle d.token)).1).1,
               (State.dropAll p fuel ((s.popDelivery p).lowerTransit (tokenHandle d.token)).1).2 + 1) := by
          simp [State.dropAll, hc, hv]
        rw [e]
        obtain ⟨a, ba, da⟩ := lowerTransit_meets (s := s.popDelivery p) hd (tokenHandle d.token) hv
        have bs : Becomes s a
            (record := changeAt s.record (tokenHandle d.token)
              { s.record (tokenHandle d.token) with
                transit := (s.record (tokenHandle d.token)).transit - 1 })
            (member := changeAt s.member p
              { s.member p with inbound := (s.member p).inbound.tail }) := by
          refine ⟨ba.same, ba.record, ba.pool, fun q => ?_, ba.window, ba.lease, ba.faultCount,
            ba.lastGranted⟩
          rw [ba.member]
          by_cases hq : q = p
          · subst hq; simp
          · rw [popDelivery_member_ne _ hq, changeAt_ne _ hq]
        refine Drops.drop s a _ _ d c _ _ _ hc rfl hv bs da (ih _ ?_ ?_)
        · exact da.same.1.trans (ba.device.trans hd)
        · rw [da.keepsPorts.2.1, bs.member, changeAt_self]; dsimp only; omega
      · have hv' : (s.record (tokenHandle d.token)).verifies = false := by simpa using hv
        have e : State.dropAll p (fuel + 1) s
            = State.dropAll p fuel ((s.popDelivery p).sweepFault (tokenHandle d.token)) := by
          simp [State.dropAll, hc, hv']
        rw [e]
        have bs : Becomes s (s.popDelivery p)
            (member := changeAt s.member p
              { s.member p with inbound := (s.member p).inbound.tail }) := by
          refine ⟨⟨rfl, rfl, rfl, rfl, rfl, rfl⟩, fun _ => rfl, fun _ => rfl, fun q => ?_, fun _ => rfl, rfl, rfl,
            rfl⟩
          by_cases hq : q = p
          · subst hq; simp
          · rw [popDelivery_member_ne _ hq, changeAt_ne _ hq]
        obtain ⟨b, fb, gb⟩ := sweepFault_meets (s := s.popDelivery p) hd (tokenHandle d.token)
        refine Drops.fault s _ b _ _ d c _ _ hc rfl hv' bs fb gb (ih _ ?_ ?_)
        · exact gb.device.trans (fb.same.1.trans hd)
        · have h1 := fb.size p
          rw [gb.member]
          simp only [popDelivery_member_self] at h1
          omega

/-- The prologue does what R122 says. -/
theorem prologue_meets {s : State} (hd : s.device = .ready) (p : Port) :
    Departs s (s.prologue p).1 p (s.prologue p).2.dropped := by
  have hb : Becomes s (s.departFrom p)
      (pool := fun k => (s.pool k).forget p)
      (member := changeAt s.member p { s.member p with membership := .reclaiming 0 })
      (window := changeAt s.window p { s.window p with reserved := 0 })
      (lease := if s.holdsLease p then .vacant else s.lease) := by
    refine ⟨⟨rfl, rfl, rfl, rfl, rfl, rfl⟩, fun _ => rfl, fun k => ?_, fun q => ?_, fun q => ?_, rfl, rfl, rfl⟩
    · simp [State.departFrom, State.pool, State.updWindow, State.updMember]
    · have : (s.departFrom p).member q
          = (s.updMember p fun m => { m with membership := .reclaiming 0 }).member q := rfl
      rw [this, updMember_member]; rfl
    · have : (s.departFrom p).window q
          = ((s.updMember p fun m => { m with membership := .reclaiming 0 }).updWindow p
              fun w => { w with reserved := 0 }).window q := rfl
      rw [this, updWindow_window]; rfl
  have hsz : ((s.departFrom p).member p).inbound.size ≤ (s.member p).inbound.size := by
    rw [hb.member]; simp
  exact ⟨_, _, hb, dropAll_meets p _ _ (hb.device.trans hd) hsz, raisePeer_meets _ p⟩

@[simp] theorem prologue_waited (s : State) (p : Port) :
    (s.prologue p).2.waited = (s.waitEntryOf p).isSome := rfl

@[simp] theorem prologue_leased (s : State) (p : Port) : (s.prologue p).2.leased = s.holdsLease p := rfl

/-! ### Pops -/

theorem checkFault_popped_pool {s t : State} {h : HandleNo} (f : FaultPath s t h true) (k : PoolId) :
    (t.pool k).stack = (s.pool k).stack := by
  rcases hp : s.poolOf h with _ | j
  · rw [(f.1 hp).pool]
  · obtain ⟨u, b, -, c2⟩ := f.2 j hp
    rw [c2 (by simp), b.pool]
    by_cases hk : k = j
    · subst hk; simp [PoolRec.afterFault]
    · rw [changeAt_ne _ hk]

/-- The pops of an ALLOCATE are those of R47 and R48. -/
theorem popUntilGood_meets (k : PoolId) (p : Port) (hs : List HandleNo) (n : Nat) (s : State)
    (hd : s.device = .ready) (hk : (s.pool k).stack = hs) :
    ∃ m, (popUntilGood k p hs n s).faulty = n + m
      ∧ Pops p k s (popUntilGood k p hs n s).state (popUntilGood k p hs n s).handle m := by
  induction hs generalizing n s with
  | nil => exact ⟨0, rfl, Pops.empty s hk⟩
  | cons h rest ih =>
    have bp : Becomes s (s.updPool k fun q => { q with stack := rest })
        (pool := changeAt s.pool k { s.pool k with stack := rest }) := by
      refine ⟨⟨rfl, rfl, rfl, rfl, rfl, rfl⟩, fun _ => rfl, fun j => ?_, fun _ => rfl, fun _ => rfl, rfl, rfl, rfl⟩
      rw [updPool_pool]; rfl
    by_cases hv : (s.record h).verifies = true
    · have e : popUntilGood k p (h :: rest) n s
          = ⟨some h, n, s.updPool k fun q => { q with stack := rest }⟩ := by
        simp [popUntilGood, hv]
      rw [e]
      exact ⟨0, rfl, Pops.good s _ h rest hk hv bp⟩
    · have hv' : (s.record h).verifies = false := by simpa using hv
      have e : popUntilGood k p (h :: rest) n s
          = popUntilGood k p rest (n + 1)
              (((s.updPool k fun q => { q with stack := rest }).checkFault h true).raise p .fault) := by
        simp [popUntilGood, hv']
      rw [e]
      have fp := checkFault_meets (s := s.updPool k fun q => { q with stack := rest }) hd h true
      obtain ⟨m, h1, h2⟩ := ih (n + 1)
        (((s.updPool k fun q => { q with stack := rest }).checkFault h true).raise p .fault)
        (fp.same.1.trans hd) (by
          rw [raise_pool, checkFault_popped_pool fp, updPool_pool_self])
      exact ⟨m + 1, by rw [h1]; omega, Pops.faulty s _ _ _ _ h rest _ _ hk hv' bp fp (raise_meets _ _ _) h2⟩

/-! ### Reclaim steps -/

theorem sweepOne_meets {s : State} (hd : s.device = .ready) (p : Port) (h : HandleNo) :
    SweepsOne p h s (s.sweepOne p h) := by
  refine ⟨fun hv => ?_, fun hv => ⟨fun hc => ?_, fun k hk hh => ?_⟩⟩
  · have e : s.sweepOne p h = s.sweepFault h := by simp [State.sweepOne, hv]
    rw [e]; exact sweepFault_meets hd h
  · unfold State.sweepOne
    rcases hst : (s.record h).state with _ | _ | _ | _ <;> simp [hv, hst]
    rcases hc with hc | hc
    · simp [hst, HandleState.isInUse] at hc
    · simp [hc]
  · have e : s.sweepOne p h
        = (((s.lowerCharge k h p).writeRecord h ((s.record h).setHold p 0)).disposeIfDone h).1 := by
      simp [State.sweepOne, hv, hk, hh]
    rw [e]
    refine ⟨(s.lowerCharge k h p).writeRecord h ((s.record h).setHold p 0), _, ?_,
      disposeIfDone_meets
        (s := (s.lowerCharge k h p).writeRecord h ((s.record h).setHold p 0)) hd h⟩
    refine ⟨⟨rfl, rfl, rfl, rfl, rfl, rfl⟩, fun j => ?_, fun j => ?_, fun _ => rfl, fun _ => rfl, rfl, rfl, rfl⟩
    · rw [writeRecord_record (s := s.lowerCharge k h p) hd]
      simp only [changeAt, lowerCharge_record, HandleRec.setHold, hv]
    · rw [writeRecord_pool]
      by_cases hj : j = k
      · subst hj; simp
      · rw [lowerCharge_pool_ne _ _ _ hj, changeAt_ne _ hj]

theorem SweepsOne.device {p : Port} {h : HandleNo} {s t : State} (w : SweepsOne p h s t) :
    t.device = s.device := by
  by_cases hv : (s.record h).verifies = true
  · by_cases hc : (s.record h).state.isInUse = false ∨ (s.record h).hold p = 0
    · rw [(w.2 hv).1 hc]
    · rw [not_or] at hc
      rcases hst : (s.record h).state with _ | k | k | ⟨k, r⟩
      · simp [hst, HandleState.isInUse] at hc
      · simp [hst, HandleState.isInUse] at hc
      · obtain ⟨u, how, b, d⟩ := (w.2 hv).2 k hst hc.2
        exact d.same.1.trans b.device
      · simp [hst, HandleState.isInUse] at hc
  · obtain ⟨u, f, g⟩ := w.1 (by simpa using hv)
    exact g.device.trans f.same.1

theorem sweepAll_meets (p : Port) (hs : List HandleNo) (s : State) (hd : s.device = .ready) :
    Sweeps p hs s (s.sweepAll p hs) := by
  induction hs generalizing s with
  | nil => exact Sweeps.done s
  | cons h hs ih =>
    exact Sweeps.next s _ _ h hs (sweepOne_meets hd p h)
      (ih _ ((sweepOne_meets hd p h).device.trans hd))

/-! ### Recount steps -/

theorem countHolders_eq (r : HandleRec) (shadow : Vector Nat 4) :
    countHolders r shadow = countedIn shadow r := by
  unfold countHolders countedIn
  by_cases hu : r.state.isInUse = true
  · simp only [hu, if_true, true_and]
    refine Vector.ext fun i hi => ?_
    have hi' : i = 0 ∨ i = 1 ∨ i = 2 ∨ i = 3 := by omega
    rcases hi' with rfl | rfl | rfl | rfl <;>
      (by_cases h0 : r.hold 0 = 0 <;> by_cases h1 : r.hold 1 = 0 <;> by_cases h2 : r.hold 2 = 0 <;>
        by_cases h3 : r.hold 3 = 0 <;> simp [countOne, h0, h1, h2, h3])
  · simp only [hu, if_false, false_and, Bool.false_eq_true]
    refine Vector.ext fun i hi => ?_
    simp

theorem countAll_meets (k : PoolId) (hs : List HandleNo) (s : State) (hd : s.device = .ready) :
    Counts k hs s (s.countAll k hs) := by
  induction hs generalizing s with
  | nil => exact Counts.done s
  | cons h hs ih =>
    rcases hr : (s.pool k).recount with _ | rc
    · have e : s.countAll k (h :: hs) = s := by simp [State.countAll, hr]
      rw [e]; exact Counts.gone s _ hr
    · by_cases hv : (s.record h).verifies = true
      · have e : s.countAll k (h :: hs)
            = (s.updPool k fun q => { q with recount := q.recount.map fun rc =>
                { rc with shadow := countHolders (s.record h) rc.shadow } }).countAll k hs := by
          simp [State.countAll, hr, hv]
        rw [e]
        refine Counts.good s _ _ h hs rc hr hv ?_ (ih _ hd)
        refine ⟨⟨rfl, rfl, rfl, rfl, rfl, rfl⟩, fun _ => rfl, fun j => ?_, fun _ => rfl, fun _ => rfl, rfl, rfl, rfl⟩
        rw [updPool_pool]
        simp only [changeAt, hr, Option.map_some, countHolders_eq]
      · have hv' : (s.record h).verifies = false := by simpa using hv
        have e : s.countAll k (h :: hs) = (s.sweepFault h).countAll k hs := by
          simp [State.countAll, hr, hv']
        rw [e]
        obtain ⟨a, fa, ga⟩ := sweepFault_meets hd h
        exact Counts.fault s a _ _ h hs (by simp [hr]) hv' fa ga
          (ih _ (ga.device.trans (fa.same.1.trans hd)))

end Sys2Proof.Machine
end

