-- ==== Sys2Proof/Laws/Frames.lean ====
section
/-! SUPPORT. What every shared operation leaves alone in every state, field by field. -/

namespace Sys2Proof.Machine

/-! ### testWatch -/

@[simp] theorem testWatch_device (s : State) (k : PoolId) (p : Port) : (s.testWatch k p).device = s.device := by
  rw [testWatch_eq]; split <;> simp

@[simp] theorem testWatch_rstAsserted (s : State) (k : PoolId) (p : Port) : (s.testWatch k p).rstAsserted = s.rstAsserted := by
  rw [testWatch_eq]; split <;> simp

@[simp] theorem testWatch_era (s : State) (k : PoolId) (p : Port) : (s.testWatch k p).era = s.era := by
  rw [testWatch_eq]; split <;> simp

@[simp] theorem testWatch_divider (s : State) (k : PoolId) (p : Port) : (s.testWatch k p).divider = s.divider := by
  rw [testWatch_eq]; split <;> simp

@[simp] theorem testWatch_buses (s : State) (k : PoolId) (p : Port) : (s.testWatch k p).buses = s.buses := by
  rw [testWatch_eq]; split <;> simp

@[simp] theorem testWatch_pending (s : State) (k : PoolId) (p : Port) : (s.testWatch k p).pending = s.pending := by
  rw [testWatch_eq]; split <;> simp

@[simp] theorem testWatch_lease (s : State) (k : PoolId) (p : Port) : (s.testWatch k p).lease = s.lease := by
  rw [testWatch_eq]; split <;> simp

@[simp] theorem testWatch_lastGranted (s : State) (k : PoolId) (p : Port) : (s.testWatch k p).lastGranted = s.lastGranted := by
  rw [testWatch_eq]; split <;> simp

@[simp] theorem testWatch_faultCount (s : State) (k : PoolId) (p : Port) : (s.testWatch k p).faultCount = s.faultCount := by
  rw [testWatch_eq]; split <;> simp

@[simp] theorem testWatch_handles (s : State) (k : PoolId) (p : Port) : (s.testWatch k p).handles = s.handles := by
  rw [testWatch_eq]; split <;> simp

@[simp] theorem testWatch_members (s : State) (k : PoolId) (p : Port) : (s.testWatch k p).members = s.members := by
  rw [testWatch_eq]; split <;> simp

@[simp] theorem testWatch_member (s : State) (k : PoolId) (p : Port) (q : Port) : (s.testWatch k p).member q = s.member q := by
  rw [testWatch_eq]; split <;> simp

/-! ### testWatches -/

@[simp] theorem testWatches_device (s : State) (k : PoolId) : (s.testWatches k).device = s.device := by
  simp [State.testWatches]

@[simp] theorem testWatches_rstAsserted (s : State) (k : PoolId) : (s.testWatches k).rstAsserted = s.rstAsserted := by
  simp [State.testWatches]

@[simp] theorem testWatches_era (s : State) (k : PoolId) : (s.testWatches k).era = s.era := by
  simp [State.testWatches]

@[simp] theorem testWatches_divider (s : State) (k : PoolId) : (s.testWatches k).divider = s.divider := by
  simp [State.testWatches]

@[simp] theorem testWatches_buses (s : State) (k : PoolId) : (s.testWatches k).buses = s.buses := by
  simp [State.testWatches]

@[simp] theorem testWatches_pending (s : State) (k : PoolId) : (s.testWatches k).pending = s.pending := by
  simp [State.testWatches]

@[simp] theorem testWatches_lease (s : State) (k : PoolId) : (s.testWatches k).lease = s.lease := by
  simp [State.testWatches]

@[simp] theorem testWatches_lastGranted (s : State) (k : PoolId) : (s.testWatches k).lastGranted = s.lastGranted := by
  simp [State.testWatches]

@[simp] theorem testWatches_faultCount (s : State) (k : PoolId) : (s.testWatches k).faultCount = s.faultCount := by
  simp [State.testWatches]

@[simp] theorem testWatches_handles (s : State) (k : PoolId) : (s.testWatches k).handles = s.handles := by
  simp [State.testWatches]

@[simp] theorem testWatches_members (s : State) (k : PoolId) : (s.testWatches k).members = s.members := by
  simp [State.testWatches]

@[simp] theorem testWatches_member (s : State) (k : PoolId) (q : Port) : (s.testWatches k).member q = s.member q := by
  simp [State.testWatches]

/-! ### unassignAll -/

@[simp] theorem unassignAll_device (s : State) (hs : List HandleNo) : (s.unassignAll hs).device = s.device := by
  induction hs generalizing s with
  | nil => rfl
  | cons h hs ih => simp [State.unassignAll, ih]

@[simp] theorem unassignAll_rstAsserted (s : State) (hs : List HandleNo) : (s.unassignAll hs).rstAsserted = s.rstAsserted := by
  induction hs generalizing s with
  | nil => rfl
  | cons h hs ih => simp [State.unassignAll, ih]

@[simp] theorem unassignAll_era (s : State) (hs : List HandleNo) : (s.unassignAll hs).era = s.era := by
  induction hs generalizing s with
  | nil => rfl
  | cons h hs ih => simp [State.unassignAll, ih]

@[simp] theorem unassignAll_divider (s : State) (hs : List HandleNo) : (s.unassignAll hs).divider = s.divider := by
  induction hs generalizing s with
  | nil => rfl
  | cons h hs ih => simp [State.unassignAll, ih]

@[simp] theorem unassignAll_buses (s : State) (hs : List HandleNo) : (s.unassignAll hs).buses = s.buses := by
  induction hs generalizing s with
  | nil => rfl
  | cons h hs ih => simp [State.unassignAll, ih]

@[simp] theorem unassignAll_pending (s : State) (hs : List HandleNo) : (s.unassignAll hs).pending = s.pending := by
  induction hs generalizing s with
  | nil => rfl
  | cons h hs ih => simp [State.unassignAll, ih]

@[simp] theorem unassignAll_lease (s : State) (hs : List HandleNo) : (s.unassignAll hs).lease = s.lease := by
  induction hs generalizing s with
  | nil => rfl
  | cons h hs ih => simp [State.unassignAll, ih]

@[simp] theorem unassignAll_lastGranted (s : State) (hs : List HandleNo) : (s.unassignAll hs).lastGranted = s.lastGranted := by
  induction hs generalizing s with
  | nil => rfl
  | cons h hs ih => simp [State.unassignAll, ih]

@[simp] theorem unassignAll_faultCount (s : State) (hs : List HandleNo) : (s.unassignAll hs).faultCount = s.faultCount := by
  induction hs generalizing s with
  | nil => rfl
  | cons h hs ih => simp [State.unassignAll, ih]

@[simp] theorem unassignAll_pools (s : State) (hs : List HandleNo) : (s.unassignAll hs).pools = s.pools := by
  induction hs generalizing s with
  | nil => rfl
  | cons h hs ih => simp [State.unassignAll, ih]

@[simp] theorem unassignAll_members (s : State) (hs : List HandleNo) : (s.unassignAll hs).members = s.members := by
  induction hs generalizing s with
  | nil => rfl
  | cons h hs ih => simp [State.unassignAll, ih]

@[simp] theorem unassignAll_windows (s : State) (hs : List HandleNo) : (s.unassignAll hs).windows = s.windows := by
  induction hs generalizing s with
  | nil => rfl
  | cons h hs ih => simp [State.unassignAll, ih]

@[simp] theorem unassignAll_member (s : State) (hs : List HandleNo) (q : Port) : (s.unassignAll hs).member q = s.member q := by
  induction hs generalizing s with
  | nil => rfl
  | cons h hs ih => simp [State.unassignAll, ih]

/-! ### teardown -/

@[simp] theorem teardown_device (s : State) (k : PoolId) : (s.teardown k).device = s.device := by
  unfold State.teardown; split <;> simp

@[simp] theorem teardown_rstAsserted (s : State) (k : PoolId) : (s.teardown k).rstAsserted = s.rstAsserted := by
  unfold State.teardown; split <;> simp

@[simp] theorem teardown_era (s : State) (k : PoolId) : (s.teardown k).era = s.era := by
  unfold State.teardown; split <;> simp

@[simp] theorem teardown_divider (s : State) (k : PoolId) : (s.teardown k).divider = s.divider := by
  unfold State.teardown; split <;> simp

@[simp] theorem teardown_buses (s : State) (k : PoolId) : (s.teardown k).buses = s.buses := by
  unfold State.teardown; split <;> simp

@[simp] theorem teardown_pending (s : State) (k : PoolId) : (s.teardown k).pending = s.pending := by
  unfold State.teardown; split <;> simp

@[simp] theorem teardown_lease (s : State) (k : PoolId) : (s.teardown k).lease = s.lease := by
  unfold State.teardown; split <;> simp

@[simp] theorem teardown_lastGranted (s : State) (k : PoolId) : (s.teardown k).lastGranted = s.lastGranted := by
  unfold State.teardown; split <;> simp

@[simp] theorem teardown_faultCount (s : State) (k : PoolId) : (s.teardown k).faultCount = s.faultCount := by
  unfold State.teardown; split <;> simp

@[simp] theorem teardown_members (s : State) (k : PoolId) : (s.teardown k).members = s.members := by
  unfold State.teardown; split <;> simp

@[simp] theorem teardown_member (s : State) (k : PoolId) (q : Port) : (s.teardown k).member q = s.member q := by
  unfold State.teardown; split <;> simp

/-! ### drainTest -/

@[simp] theorem drainTest_device (s : State) (k : PoolId) : (s.drainTest k).device = s.device := by
  unfold State.drainTest; split <;> simp

@[simp] theorem drainTest_rstAsserted (s : State) (k : PoolId) : (s.drainTest k).rstAsserted = s.rstAsserted := by
  unfold State.drainTest; split <;> simp

@[simp] theorem drainTest_era (s : State) (k : PoolId) : (s.drainTest k).era = s.era := by
  unfold State.drainTest; split <;> simp

@[simp] theorem drainTest_divider (s : State) (k : PoolId) : (s.drainTest k).divider = s.divider := by
  unfold State.drainTest; split <;> simp

@[simp] theorem drainTest_buses (s : State) (k : PoolId) : (s.drainTest k).buses = s.buses := by
  unfold State.drainTest; split <;> simp

@[simp] theorem drainTest_pending (s : State) (k : PoolId) : (s.drainTest k).pending = s.pending := by
  unfold State.drainTest; split <;> simp

@[simp] theorem drainTest_lease (s : State) (k : PoolId) : (s.drainTest k).lease = s.lease := by
  unfold State.drainTest; split <;> simp

@[simp] theorem drainTest_lastGranted (s : State) (k : PoolId) : (s.drainTest k).lastGranted = s.lastGranted := by
  unfold State.drainTest; split <;> simp

@[simp] theorem drainTest_faultCount (s : State) (k : PoolId) : (s.drainTest k).faultCount = s.faultCount := by
  unfold State.drainTest; split <;> simp

@[simp] theorem drainTest_members (s : State) (k : PoolId) : (s.drainTest k).members = s.members := by
  unfold State.drainTest; split <;> simp

@[simp] theorem drainTest_member (s : State) (k : PoolId) (q : Port) : (s.drainTest k).member q = s.member q := by
  unfold State.drainTest; split <;> simp

/-! ### push -/

@[simp] theorem push_device (s : State) (k : PoolId) (h : HandleNo) : (s.push k h).device = s.device := by
  simp [State.push]

@[simp] theorem push_rstAsserted (s : State) (k : PoolId) (h : HandleNo) : (s.push k h).rstAsserted = s.rstAsserted := by
  simp [State.push]

@[simp] theorem push_era (s : State) (k : PoolId) (h : HandleNo) : (s.push k h).era = s.era := by
  simp [State.push]

@[simp] theorem push_divider (s : State) (k : PoolId) (h : HandleNo) : (s.push k h).divider = s.divider := by
  simp [State.push]

@[simp] theorem push_buses (s : State) (k : PoolId) (h : HandleNo) : (s.push k h).buses = s.buses := by
  simp [State.push]

@[simp] theorem push_pending (s : State) (k : PoolId) (h : HandleNo) : (s.push k h).pending = s.pending := by
  simp [State.push]

@[simp] theorem push_lease (s : State) (k : PoolId) (h : HandleNo) : (s.push k h).lease = s.lease := by
  simp [State.push]

@[simp] theorem push_lastGranted (s : State) (k : PoolId) (h : HandleNo) : (s.push k h).lastGranted = s.lastGranted := by
  simp [State.push]

@[simp] theorem push_faultCount (s : State) (k : PoolId) (h : HandleNo) : (s.push k h).faultCount = s.faultCount := by
  simp [State.push]

@[simp] theorem push_members (s : State) (k : PoolId) (h : HandleNo) : (s.push k h).members = s.members := by
  simp [State.push]

@[simp] theorem push_member (s : State) (k : PoolId) (h : HandleNo) (q : Port) : (s.push k h).member q = s.member q := by
  simp [State.push]

/-! ### grantTo -/

@[simp] theorem grantTo_device (s : State) (k : PoolId) (h : HandleNo) (g : BitVec 4) (w : WaitEntry) (rest : List WaitEntry) : (s.grantTo k h g w rest).device = s.device := by
  simp [State.grantTo]

@[simp] theorem grantTo_rstAsserted (s : State) (k : PoolId) (h : HandleNo) (g : BitVec 4) (w : WaitEntry) (rest : List WaitEntry) : (s.grantTo k h g w rest).rstAsserted = s.rstAsserted := by
  simp [State.grantTo]

@[simp] theorem grantTo_era (s : State) (k : PoolId) (h : HandleNo) (g : BitVec 4) (w : WaitEntry) (rest : List WaitEntry) : (s.grantTo k h g w rest).era = s.era := by
  simp [State.grantTo]

@[simp] theorem grantTo_divider (s : State) (k : PoolId) (h : HandleNo) (g : BitVec 4) (w : WaitEntry) (rest : List WaitEntry) : (s.grantTo k h g w rest).divider = s.divider := by
  simp [State.grantTo]

@[simp] theorem grantTo_buses (s : State) (k : PoolId) (h : HandleNo) (g : BitVec 4) (w : WaitEntry) (rest : List WaitEntry) : (s.grantTo k h g w rest).buses = s.buses := by
  simp [State.grantTo]

@[simp] theorem grantTo_pending (s : State) (k : PoolId) (h : HandleNo) (g : BitVec 4) (w : WaitEntry) (rest : List WaitEntry) : (s.grantTo k h g w rest).pending = s.pending := by
  simp [State.grantTo]

@[simp] theorem grantTo_lease (s : State) (k : PoolId) (h : HandleNo) (g : BitVec 4) (w : WaitEntry) (rest : List WaitEntry) : (s.grantTo k h g w rest).lease = s.lease := by
  simp [State.grantTo]

@[simp] theorem grantTo_lastGranted (s : State) (k : PoolId) (h : HandleNo) (g : BitVec 4) (w : WaitEntry) (rest : List WaitEntry) : (s.grantTo k h g w rest).lastGranted = s.lastGranted := by
  simp [State.grantTo]

@[simp] theorem grantTo_faultCount (s : State) (k : PoolId) (h : HandleNo) (g : BitVec 4) (w : WaitEntry) (rest : List WaitEntry) : (s.grantTo k h g w rest).faultCount = s.faultCount := by
  simp [State.grantTo]

@[simp] theorem grantTo_members (s : State) (k : PoolId) (h : HandleNo) (g : BitVec 4) (w : WaitEntry) (rest : List WaitEntry) : (s.grantTo k h g w rest).members = s.members := by
  simp [State.grantTo]

@[simp] theorem grantTo_member (s : State) (k : PoolId) (h : HandleNo) (g : BitVec 4) (w : WaitEntry) (rest : List WaitEntry) (q : Port) : (s.grantTo k h g w rest).member q = s.member q := by
  simp [State.grantTo]

/-! ### dispose -/

@[simp] theorem dispose_device (s : State) (h : HandleNo) : ((s.dispose h).1).device = s.device := by
  unfold State.dispose; dsimp only; split
  · rfl
  · split <;> simp

@[simp] theorem dispose_rstAsserted (s : State) (h : HandleNo) : ((s.dispose h).1).rstAsserted = s.rstAsserted := by
  unfold State.dispose; dsimp only; split
  · rfl
  · split <;> simp

@[simp] theorem dispose_era (s : State) (h : HandleNo) : ((s.dispose h).1).era = s.era := by
  unfold State.dispose; dsimp only; split
  · rfl
  · split <;> simp

@[simp] theorem dispose_divider (s : State) (h : HandleNo) : ((s.dispose h).1).divider = s.divider := by
  unfold State.dispose; dsimp only; split
  · rfl
  · split <;> simp

@[simp] theorem dispose_buses (s : State) (h : HandleNo) : ((s.dispose h).1).buses = s.buses := by
  unfold State.dispose; dsimp only; split
  · rfl
  · split <;> simp

@[simp] theorem dispose_pending (s : State) (h : HandleNo) : ((s.dispose h).1).pending = s.pending := by
  unfold State.dispose; dsimp only; split
  · rfl
  · split <;> simp

@[simp] theorem dispose_lease (s : State) (h : HandleNo) : ((s.dispose h).1).lease = s.lease := by
  unfold State.dispose; dsimp only; split
  · rfl
  · split <;> simp

@[simp] theorem dispose_lastGranted (s : State) (h : HandleNo) : ((s.dispose h).1).lastGranted = s.lastGranted := by
  unfold State.dispose; dsimp only; split
  · rfl
  · split <;> simp

@[simp] theorem dispose_faultCount (s : State) (h : HandleNo) : ((s.dispose h).1).faultCount = s.faultCount := by
  unfold State.dispose; dsimp only; split
  · rfl
  · split <;> simp

@[simp] theorem dispose_members (s : State) (h : HandleNo) : ((s.dispose h).1).members = s.members := by
  unfold State.dispose; dsimp only; split
  · rfl
  · split <;> simp

@[simp] theorem dispose_member (s : State) (h : HandleNo) (q : Port) : ((s.dispose h).1).member q = s.member q := by
  unfold State.dispose; dsimp only; split
  · rfl
  · split <;> simp

/-! ### disposeIfDone -/

@[simp] theorem disposeIfDone_device (s : State) (h : HandleNo) : ((s.disposeIfDone h).1).device = s.device := by
  unfold State.disposeIfDone; split <;> simp

@[simp] theorem disposeIfDone_rstAsserted (s : State) (h : HandleNo) : ((s.disposeIfDone h).1).rstAsserted = s.rstAsserted := by
  unfold State.disposeIfDone; split <;> simp

@[simp] theorem disposeIfDone_era (s : State) (h : HandleNo) : ((s.disposeIfDone h).1).era = s.era := by
  unfold State.disposeIfDone; split <;> simp

@[simp] theorem disposeIfDone_divider (s : State) (h : HandleNo) : ((s.disposeIfDone h).1).divider = s.divider := by
  unfold State.disposeIfDone; split <;> simp

@[simp] theorem disposeIfDone_buses (s : State) (h : HandleNo) : ((s.disposeIfDone h).1).buses = s.buses := by
  unfold State.disposeIfDone; split <;> simp

@[simp] theorem disposeIfDone_pending (s : State) (h : HandleNo) : ((s.disposeIfDone h).1).pending = s.pending := by
  unfold State.disposeIfDone; split <;> simp

@[simp] theorem disposeIfDone_lease (s : State) (h : HandleNo) : ((s.disposeIfDone h).1).lease = s.lease := by
  unfold State.disposeIfDone; split <;> simp

@[simp] theorem disposeIfDone_lastGranted (s : State) (h : HandleNo) : ((s.disposeIfDone h).1).lastGranted = s.lastGranted := by
  unfold State.disposeIfDone; split <;> simp

@[simp] theorem disposeIfDone_faultCount (s : State) (h : HandleNo) : ((s.disposeIfDone h).1).faultCount = s.faultCount := by
  unfold State.disposeIfDone; split <;> simp

@[simp] theorem disposeIfDone_members (s : State) (h : HandleNo) : ((s.disposeIfDone h).1).members = s.members := by
  unfold State.disposeIfDone; split <;> simp

@[simp] theorem disposeIfDone_member (s : State) (h : HandleNo) (q : Port) : ((s.disposeIfDone h).1).member q = s.member q := by
  unfold State.disposeIfDone; split <;> simp

/-! ### lowerTransit -/

@[simp] theorem lowerTransit_device (s : State) (h : HandleNo) : ((s.lowerTransit h).1).device = s.device := by
  simp [State.lowerTransit]

@[simp] theorem lowerTransit_rstAsserted (s : State) (h : HandleNo) : ((s.lowerTransit h).1).rstAsserted = s.rstAsserted := by
  simp [State.lowerTransit]

@[simp] theorem lowerTransit_era (s : State) (h : HandleNo) : ((s.lowerTransit h).1).era = s.era := by
  simp [State.lowerTransit]

@[simp] theorem lowerTransit_divider (s : State) (h : HandleNo) : ((s.lowerTransit h).1).divider = s.divider := by
  simp [State.lowerTransit]

@[simp] theorem lowerTransit_buses (s : State) (h : HandleNo) : ((s.lowerTransit h).1).buses = s.buses := by
  simp [State.lowerTransit]

@[simp] theorem lowerTransit_pending (s : State) (h : HandleNo) : ((s.lowerTransit h).1).pending = s.pending := by
  simp [State.lowerTransit]

@[simp] theorem lowerTransit_lease (s : State) (h : HandleNo) : ((s.lowerTransit h).1).lease = s.lease := by
  simp [State.lowerTransit]

@[simp] theorem lowerTransit_lastGranted (s : State) (h : HandleNo) : ((s.lowerTransit h).1).lastGranted = s.lastGranted := by
  simp [State.lowerTransit]

@[simp] theorem lowerTransit_faultCount (s : State) (h : HandleNo) : ((s.lowerTransit h).1).faultCount = s.faultCount := by
  simp [State.lowerTransit]

@[simp] theorem lowerTransit_members (s : State) (h : HandleNo) : ((s.lowerTransit h).1).members = s.members := by
  simp [State.lowerTransit]

@[simp] theorem lowerTransit_member (s : State) (h : HandleNo) (q : Port) : ((s.lowerTransit h).1).member q = s.member q := by
  simp [State.lowerTransit]

/-! ### checkFault -/

@[simp] theorem checkFault_device (s : State) (h : HandleNo) (popped : Bool) : (s.checkFault h popped).device = s.device := by
  unfold State.checkFault; dsimp only; repeat' split
  all_goals simp

@[simp] theorem checkFault_rstAsserted (s : State) (h : HandleNo) (popped : Bool) : (s.checkFault h popped).rstAsserted = s.rstAsserted := by
  unfold State.checkFault; dsimp only; repeat' split
  all_goals simp

@[simp] theorem checkFault_era (s : State) (h : HandleNo) (popped : Bool) : (s.checkFault h popped).era = s.era := by
  unfold State.checkFault; dsimp only; repeat' split
  all_goals simp

@[simp] theorem checkFault_divider (s : State) (h : HandleNo) (popped : Bool) : (s.checkFault h popped).divider = s.divider := by
  unfold State.checkFault; dsimp only; repeat' split
  all_goals simp

@[simp] theorem checkFault_buses (s : State) (h : HandleNo) (popped : Bool) : (s.checkFault h popped).buses = s.buses := by
  unfold State.checkFault; dsimp only; repeat' split
  all_goals simp

@[simp] theorem checkFault_pending (s : State) (h : HandleNo) (popped : Bool) : (s.checkFault h popped).pending = s.pending := by
  unfold State.checkFault; dsimp only; repeat' split
  all_goals simp

@[simp] theorem checkFault_lease (s : State) (h : HandleNo) (popped : Bool) : (s.checkFault h popped).lease = s.lease := by
  unfold State.checkFault; dsimp only; repeat' split
  all_goals simp

@[simp] theorem checkFault_lastGranted (s : State) (h : HandleNo) (popped : Bool) : (s.checkFault h popped).lastGranted = s.lastGranted := by
  unfold State.checkFault; dsimp only; repeat' split
  all_goals simp

/-! ### raiseOnline -/

@[simp] theorem raiseOnline_device (s : State) (c : Cause) (ps : List Port) : (s.raiseOnline c ps).device = s.device := by
  induction ps generalizing s with
  | nil => rfl
  | cons p ps ih => unfold State.raiseOnline; rw [ih]; split <;> simp

@[simp] theorem raiseOnline_rstAsserted (s : State) (c : Cause) (ps : List Port) : (s.raiseOnline c ps).rstAsserted = s.rstAsserted := by
  induction ps generalizing s with
  | nil => rfl
  | cons p ps ih => unfold State.raiseOnline; rw [ih]; split <;> simp

@[simp] theorem raiseOnline_era (s : State) (c : Cause) (ps : List Port) : (s.raiseOnline c ps).era = s.era := by
  induction ps generalizing s with
  | nil => rfl
  | cons p ps ih => unfold State.raiseOnline; rw [ih]; split <;> simp

@[simp] theorem raiseOnline_divider (s : State) (c : Cause) (ps : List Port) : (s.raiseOnline c ps).divider = s.divider := by
  induction ps generalizing s with
  | nil => rfl
  | cons p ps ih => unfold State.raiseOnline; rw [ih]; split <;> simp

@[simp] theorem raiseOnline_buses (s : State) (c : Cause) (ps : List Port) : (s.raiseOnline c ps).buses = s.buses := by
  induction ps generalizing s with
  | nil => rfl
  | cons p ps ih => unfold State.raiseOnline; rw [ih]; split <;> simp

@[simp] theorem raiseOnline_pending (s : State) (c : Cause) (ps : List Port) : (s.raiseOnline c ps).pending = s.pending := by
  induction ps generalizing s with
  | nil => rfl
  | cons p ps ih => unfold State.raiseOnline; rw [ih]; split <;> simp

@[simp] theorem raiseOnline_lease (s : State) (c : Cause) (ps : List Port) : (s.raiseOnline c ps).lease = s.lease := by
  induction ps generalizing s with
  | nil => rfl
  | cons p ps ih => unfold State.raiseOnline; rw [ih]; split <;> simp

@[simp] theorem raiseOnline_lastGranted (s : State) (c : Cause) (ps : List Port) : (s.raiseOnline c ps).lastGranted = s.lastGranted := by
  induction ps generalizing s with
  | nil => rfl
  | cons p ps ih => unfold State.raiseOnline; rw [ih]; split <;> simp

@[simp] theorem raiseOnline_faultCount (s : State) (c : Cause) (ps : List Port) : (s.raiseOnline c ps).faultCount = s.faultCount := by
  induction ps generalizing s with
  | nil => rfl
  | cons p ps ih => unfold State.raiseOnline; rw [ih]; split <;> simp

@[simp] theorem raiseOnline_handles (s : State) (c : Cause) (ps : List Port) : (s.raiseOnline c ps).handles = s.handles := by
  induction ps generalizing s with
  | nil => rfl
  | cons p ps ih => unfold State.raiseOnline; rw [ih]; split <;> simp

@[simp] theorem raiseOnline_pools (s : State) (c : Cause) (ps : List Port) : (s.raiseOnline c ps).pools = s.pools := by
  induction ps generalizing s with
  | nil => rfl
  | cons p ps ih => unfold State.raiseOnline; rw [ih]; split <;> simp

@[simp] theorem raiseOnline_members (s : State) (c : Cause) (ps : List Port) : (s.raiseOnline c ps).members = s.members := by
  induction ps generalizing s with
  | nil => rfl
  | cons p ps ih => unfold State.raiseOnline; rw [ih]; split <;> simp

@[simp] theorem raiseOnline_member (s : State) (c : Cause) (ps : List Port) (q : Port) : (s.raiseOnline c ps).member q = s.member q := by
  induction ps generalizing s with
  | nil => rfl
  | cons p ps ih => unfold State.raiseOnline; rw [ih]; split <;> simp

/-! ### sweepFault -/

@[simp] theorem sweepFault_device (s : State) (h : HandleNo) : (s.sweepFault h).device = s.device := by
  simp [State.sweepFault]

@[simp] theorem sweepFault_rstAsserted (s : State) (h : HandleNo) : (s.sweepFault h).rstAsserted = s.rstAsserted := by
  simp [State.sweepFault]

@[simp] theorem sweepFault_era (s : State) (h : HandleNo) : (s.sweepFault h).era = s.era := by
  simp [State.sweepFault]

@[simp] theorem sweepFault_divider (s : State) (h : HandleNo) : (s.sweepFault h).divider = s.divider := by
  simp [State.sweepFault]

@[simp] theorem sweepFault_buses (s : State) (h : HandleNo) : (s.sweepFault h).buses = s.buses := by
  simp [State.sweepFault]

@[simp] theorem sweepFault_pending (s : State) (h : HandleNo) : (s.sweepFault h).pending = s.pending := by
  simp [State.sweepFault]

@[simp] theorem sweepFault_lease (s : State) (h : HandleNo) : (s.sweepFault h).lease = s.lease := by
  simp [State.sweepFault]

@[simp] theorem sweepFault_lastGranted (s : State) (h : HandleNo) : (s.sweepFault h).lastGranted = s.lastGranted := by
  simp [State.sweepFault]

/-! ### answerFault -/

@[simp] theorem answerFault_device (s : State) (p : Port) (e : Entry) (h : HandleNo) : (s.answerFault p e h).device = s.device := by
  simp [State.answerFault]

@[simp] theorem answerFault_rstAsserted (s : State) (p : Port) (e : Entry) (h : HandleNo) : (s.answerFault p e h).rstAsserted = s.rstAsserted := by
  simp [State.answerFault]

@[simp] theorem answerFault_era (s : State) (p : Port) (e : Entry) (h : HandleNo) : (s.answerFault p e h).era = s.era := by
  simp [State.answerFault]

@[simp] theorem answerFault_divider (s : State) (p : Port) (e : Entry) (h : HandleNo) : (s.answerFault p e h).divider = s.divider := by
  simp [State.answerFault]

@[simp] theorem answerFault_buses (s : State) (p : Port) (e : Entry) (h : HandleNo) : (s.answerFault p e h).buses = s.buses := by
  simp [State.answerFault]

@[simp] theorem answerFault_pending (s : State) (p : Port) (e : Entry) (h : HandleNo) : (s.answerFault p e h).pending = s.pending := by
  simp [State.answerFault]

@[simp] theorem answerFault_lease (s : State) (p : Port) (e : Entry) (h : HandleNo) : (s.answerFault p e h).lease = s.lease := by
  simp [State.answerFault]

@[simp] theorem answerFault_lastGranted (s : State) (p : Port) (e : Entry) (h : HandleNo) : (s.answerFault p e h).lastGranted = s.lastGranted := by
  simp [State.answerFault]

/-! ### dropAll -/

@[simp] theorem dropAll_device (s : State) (p : Port) (fuel : Nat) : ((State.dropAll p fuel s).1).device = s.device := by
  induction fuel generalizing s with
  | zero => rfl
  | succ n ih =>
    unfold State.dropAll; dsimp only; split
    · rfl
    · split <;> simp [ih]

@[simp] theorem dropAll_rstAsserted (s : State) (p : Port) (fuel : Nat) : ((State.dropAll p fuel s).1).rstAsserted = s.rstAsserted := by
  induction fuel generalizing s with
  | zero => rfl
  | succ n ih =>
    unfold State.dropAll; dsimp only; split
    · rfl
    · split <;> simp [ih]

@[simp] theorem dropAll_era (s : State) (p : Port) (fuel : Nat) : ((State.dropAll p fuel s).1).era = s.era := by
  induction fuel generalizing s with
  | zero => rfl
  | succ n ih =>
    unfold State.dropAll; dsimp only; split
    · rfl
    · split <;> simp [ih]

@[simp] theorem dropAll_divider (s : State) (p : Port) (fuel : Nat) : ((State.dropAll p fuel s).1).divider = s.divider := by
  induction fuel generalizing s with
  | zero => rfl
  | succ n ih =>
    unfold State.dropAll; dsimp only; split
    · rfl
    · split <;> simp [ih]

@[simp] theorem dropAll_buses (s : State) (p : Port) (fuel : Nat) : ((State.dropAll p fuel s).1).buses = s.buses := by
  induction fuel generalizing s with
  | zero => rfl
  | succ n ih =>
    unfold State.dropAll; dsimp only; split
    · rfl
    · split <;> simp [ih]

@[simp] theorem dropAll_pending (s : State) (p : Port) (fuel : Nat) : ((State.dropAll p fuel s).1).pending = s.pending := by
  induction fuel generalizing s with
  | zero => rfl
  | succ n ih =>
    unfold State.dropAll; dsimp only; split
    · rfl
    · split <;> simp [ih]

@[simp] theorem dropAll_lease (s : State) (p : Port) (fuel : Nat) : ((State.dropAll p fuel s).1).lease = s.lease := by
  induction fuel generalizing s with
  | zero => rfl
  | succ n ih =>
    unfold State.dropAll; dsimp only; split
    · rfl
    · split <;> simp [ih]

@[simp] theorem dropAll_lastGranted (s : State) (p : Port) (fuel : Nat) : ((State.dropAll p fuel s).1).lastGranted = s.lastGranted := by
  induction fuel generalizing s with
  | zero => rfl
  | succ n ih =>
    unfold State.dropAll; dsimp only; split
    · rfl
    · split <;> simp [ih]

/-! ### prologue -/

@[simp] theorem prologue_device (s : State) (p : Port) : ((s.prologue p).1).device = s.device := by
  simp [State.prologue, State.departFrom]

@[simp] theorem prologue_rstAsserted (s : State) (p : Port) : ((s.prologue p).1).rstAsserted = s.rstAsserted := by
  simp [State.prologue, State.departFrom]

@[simp] theorem prologue_era (s : State) (p : Port) : ((s.prologue p).1).era = s.era := by
  simp [State.prologue, State.departFrom]

@[simp] theorem prologue_divider (s : State) (p : Port) : ((s.prologue p).1).divider = s.divider := by
  simp [State.prologue, State.departFrom]

@[simp] theorem prologue_buses (s : State) (p : Port) : ((s.prologue p).1).buses = s.buses := by
  simp [State.prologue, State.departFrom]

@[simp] theorem prologue_pending (s : State) (p : Port) : ((s.prologue p).1).pending = s.pending := by
  simp [State.prologue, State.departFrom]

@[simp] theorem prologue_lastGranted (s : State) (p : Port) : ((s.prologue p).1).lastGranted = s.lastGranted := by
  simp [State.prologue, State.departFrom]

/-! ### sweepOne -/

@[simp] theorem sweepOne_device (s : State) (p : Port) (h : HandleNo) : (s.sweepOne p h).device = s.device := by
  unfold State.sweepOne; dsimp only; repeat' split
  all_goals simp

@[simp] theorem sweepOne_rstAsserted (s : State) (p : Port) (h : HandleNo) : (s.sweepOne p h).rstAsserted = s.rstAsserted := by
  unfold State.sweepOne; dsimp only; repeat' split
  all_goals simp

@[simp] theorem sweepOne_era (s : State) (p : Port) (h : HandleNo) : (s.sweepOne p h).era = s.era := by
  unfold State.sweepOne; dsimp only; repeat' split
  all_goals simp

@[simp] theorem sweepOne_divider (s : State) (p : Port) (h : HandleNo) : (s.sweepOne p h).divider = s.divider := by
  unfold State.sweepOne; dsimp only; repeat' split
  all_goals simp

@[simp] theorem sweepOne_buses (s : State) (p : Port) (h : HandleNo) : (s.sweepOne p h).buses = s.buses := by
  unfold State.sweepOne; dsimp only; repeat' split
  all_goals simp

@[simp] theorem sweepOne_pending (s : State) (p : Port) (h : HandleNo) : (s.sweepOne p h).pending = s.pending := by
  unfold State.sweepOne; dsimp only; repeat' split
  all_goals simp

@[simp] theorem sweepOne_lease (s : State) (p : Port) (h : HandleNo) : (s.sweepOne p h).lease = s.lease := by
  unfold State.sweepOne; dsimp only; repeat' split
  all_goals simp

@[simp] theorem sweepOne_lastGranted (s : State) (p : Port) (h : HandleNo) : (s.sweepOne p h).lastGranted = s.lastGranted := by
  unfold State.sweepOne; dsimp only; repeat' split
  all_goals simp

/-! ### sweepAll -/

@[simp] theorem sweepAll_device (s : State) (p : Port) (hs : List HandleNo) : (s.sweepAll p hs).device = s.device := by
  induction hs generalizing s with
  | nil => rfl
  | cons h hs ih => simp [State.sweepAll, ih]

@[simp] theorem sweepAll_rstAsserted (s : State) (p : Port) (hs : List HandleNo) : (s.sweepAll p hs).rstAsserted = s.rstAsserted := by
  induction hs generalizing s with
  | nil => rfl
  | cons h hs ih => simp [State.sweepAll, ih]

@[simp] theorem sweepAll_era (s : State) (p : Port) (hs : List HandleNo) : (s.sweepAll p hs).era = s.era := by
  induction hs generalizing s with
  | nil => rfl
  | cons h hs ih => simp [State.sweepAll, ih]

@[simp] theorem sweepAll_divider (s : State) (p : Port) (hs : List HandleNo) : (s.sweepAll p hs).divider = s.divider := by
  induction hs generalizing s with
  | nil => rfl
  | cons h hs ih => simp [State.sweepAll, ih]

@[simp] theorem sweepAll_buses (s : State) (p : Port) (hs : List HandleNo) : (s.sweepAll p hs).buses = s.buses := by
  induction hs generalizing s with
  | nil => rfl
  | cons h hs ih => simp [State.sweepAll, ih]

@[simp] theorem sweepAll_pending (s : State) (p : Port) (hs : List HandleNo) : (s.sweepAll p hs).pending = s.pending := by
  induction hs generalizing s with
  | nil => rfl
  | cons h hs ih => simp [State.sweepAll, ih]

@[simp] theorem sweepAll_lease (s : State) (p : Port) (hs : List HandleNo) : (s.sweepAll p hs).lease = s.lease := by
  induction hs generalizing s with
  | nil => rfl
  | cons h hs ih => simp [State.sweepAll, ih]

@[simp] theorem sweepAll_lastGranted (s : State) (p : Port) (hs : List HandleNo) : (s.sweepAll p hs).lastGranted = s.lastGranted := by
  induction hs generalizing s with
  | nil => rfl
  | cons h hs ih => simp [State.sweepAll, ih]

/-! ### countAll -/

@[simp] theorem countAll_device (s : State) (k : PoolId) (hs : List HandleNo) : (s.countAll k hs).device = s.device := by
  induction hs generalizing s with
  | nil => rfl
  | cons h hs ih =>
    unfold State.countAll; split
    · rfl
    · dsimp only; rw [ih]; split <;> simp

@[simp] theorem countAll_rstAsserted (s : State) (k : PoolId) (hs : List HandleNo) : (s.countAll k hs).rstAsserted = s.rstAsserted := by
  induction hs generalizing s with
  | nil => rfl
  | cons h hs ih =>
    unfold State.countAll; split
    · rfl
    · dsimp only; rw [ih]; split <;> simp

@[simp] theorem countAll_era (s : State) (k : PoolId) (hs : List HandleNo) : (s.countAll k hs).era = s.era := by
  induction hs generalizing s with
  | nil => rfl
  | cons h hs ih =>
    unfold State.countAll; split
    · rfl
    · dsimp only; rw [ih]; split <;> simp

@[simp] theorem countAll_divider (s : State) (k : PoolId) (hs : List HandleNo) : (s.countAll k hs).divider = s.divider := by
  induction hs generalizing s with
  | nil => rfl
  | cons h hs ih =>
    unfold State.countAll; split
    · rfl
    · dsimp only; rw [ih]; split <;> simp

@[simp] theorem countAll_buses (s : State) (k : PoolId) (hs : List HandleNo) : (s.countAll k hs).buses = s.buses := by
  induction hs generalizing s with
  | nil => rfl
  | cons h hs ih =>
    unfold State.countAll; split
    · rfl
    · dsimp only; rw [ih]; split <;> simp

@[simp] theorem countAll_pending (s : State) (k : PoolId) (hs : List HandleNo) : (s.countAll k hs).pending = s.pending := by
  induction hs generalizing s with
  | nil => rfl
  | cons h hs ih =>
    unfold State.countAll; split
    · rfl
    · dsimp only; rw [ih]; split <;> simp

@[simp] theorem countAll_lease (s : State) (k : PoolId) (hs : List HandleNo) : (s.countAll k hs).lease = s.lease := by
  induction hs generalizing s with
  | nil => rfl
  | cons h hs ih =>
    unfold State.countAll; split
    · rfl
    · dsimp only; rw [ih]; split <;> simp

@[simp] theorem countAll_lastGranted (s : State) (k : PoolId) (hs : List HandleNo) : (s.countAll k hs).lastGranted = s.lastGranted := by
  induction hs generalizing s with
  | nil => rfl
  | cons h hs ih =>
    unfold State.countAll; split
    · rfl
    · dsimp only; rw [ih]; split <;> simp

/-! ### freeAll -/

@[simp] theorem freeAll_device (s : State) (k : PoolId) (hs : List HandleNo) : (s.freeAll k hs).device = s.device := by
  induction hs generalizing s with
  | nil => rfl
  | cons h hs ih => simp [State.freeAll, ih]

@[simp] theorem freeAll_rstAsserted (s : State) (k : PoolId) (hs : List HandleNo) : (s.freeAll k hs).rstAsserted = s.rstAsserted := by
  induction hs generalizing s with
  | nil => rfl
  | cons h hs ih => simp [State.freeAll, ih]

@[simp] theorem freeAll_era (s : State) (k : PoolId) (hs : List HandleNo) : (s.freeAll k hs).era = s.era := by
  induction hs generalizing s with
  | nil => rfl
  | cons h hs ih => simp [State.freeAll, ih]

@[simp] theorem freeAll_divider (s : State) (k : PoolId) (hs : List HandleNo) : (s.freeAll k hs).divider = s.divider := by
  induction hs generalizing s with
  | nil => rfl
  | cons h hs ih => simp [State.freeAll, ih]

@[simp] theorem freeAll_buses (s : State) (k : PoolId) (hs : List HandleNo) : (s.freeAll k hs).buses = s.buses := by
  induction hs generalizing s with
  | nil => rfl
  | cons h hs ih => simp [State.freeAll, ih]

@[simp] theorem freeAll_pending (s : State) (k : PoolId) (hs : List HandleNo) : (s.freeAll k hs).pending = s.pending := by
  induction hs generalizing s with
  | nil => rfl
  | cons h hs ih => simp [State.freeAll, ih]

@[simp] theorem freeAll_lease (s : State) (k : PoolId) (hs : List HandleNo) : (s.freeAll k hs).lease = s.lease := by
  induction hs generalizing s with
  | nil => rfl
  | cons h hs ih => simp [State.freeAll, ih]

@[simp] theorem freeAll_lastGranted (s : State) (k : PoolId) (hs : List HandleNo) : (s.freeAll k hs).lastGranted = s.lastGranted := by
  induction hs generalizing s with
  | nil => rfl
  | cons h hs ih => simp [State.freeAll, ih]

@[simp] theorem freeAll_faultCount (s : State) (k : PoolId) (hs : List HandleNo) : (s.freeAll k hs).faultCount = s.faultCount := by
  induction hs generalizing s with
  | nil => rfl
  | cons h hs ih => simp [State.freeAll, ih]

@[simp] theorem freeAll_pools (s : State) (k : PoolId) (hs : List HandleNo) : (s.freeAll k hs).pools = s.pools := by
  induction hs generalizing s with
  | nil => rfl
  | cons h hs ih => simp [State.freeAll, ih]

@[simp] theorem freeAll_members (s : State) (k : PoolId) (hs : List HandleNo) : (s.freeAll k hs).members = s.members := by
  induction hs generalizing s with
  | nil => rfl
  | cons h hs ih => simp [State.freeAll, ih]

@[simp] theorem freeAll_windows (s : State) (k : PoolId) (hs : List HandleNo) : (s.freeAll k hs).windows = s.windows := by
  induction hs generalizing s with
  | nil => rfl
  | cons h hs ih => simp [State.freeAll, ih]

@[simp] theorem freeAll_member (s : State) (k : PoolId) (hs : List HandleNo) (q : Port) : (s.freeAll k hs).member q = s.member q := by
  induction hs generalizing s with
  | nil => rfl
  | cons h hs ih => simp [State.freeAll, ih]

/-! ### turnAwayAll -/

@[simp] theorem turnAwayAll_device (s : State) (ws : List WaitEntry) : (s.turnAwayAll ws).device = s.device := by
  induction ws generalizing s with
  | nil => rfl
  | cons h hs ih => simp [State.turnAwayAll, ih]

@[simp] theorem turnAwayAll_rstAsserted (s : State) (ws : List WaitEntry) : (s.turnAwayAll ws).rstAsserted = s.rstAsserted := by
  induction ws generalizing s with
  | nil => rfl
  | cons h hs ih => simp [State.turnAwayAll, ih]

@[simp] theorem turnAwayAll_era (s : State) (ws : List WaitEntry) : (s.turnAwayAll ws).era = s.era := by
  induction ws generalizing s with
  | nil => rfl
  | cons h hs ih => simp [State.turnAwayAll, ih]

@[simp] theorem turnAwayAll_divider (s : State) (ws : List WaitEntry) : (s.turnAwayAll ws).divider = s.divider := by
  induction ws generalizing s with
  | nil => rfl
  | cons h hs ih => simp [State.turnAwayAll, ih]

@[simp] theorem turnAwayAll_buses (s : State) (ws : List WaitEntry) : (s.turnAwayAll ws).buses = s.buses := by
  induction ws generalizing s with
  | nil => rfl
  | cons h hs ih => simp [State.turnAwayAll, ih]

@[simp] theorem turnAwayAll_pending (s : State) (ws : List WaitEntry) : (s.turnAwayAll ws).pending = s.pending := by
  induction ws generalizing s with
  | nil => rfl
  | cons h hs ih => simp [State.turnAwayAll, ih]

@[simp] theorem turnAwayAll_lease (s : State) (ws : List WaitEntry) : (s.turnAwayAll ws).lease = s.lease := by
  induction ws generalizing s with
  | nil => rfl
  | cons h hs ih => simp [State.turnAwayAll, ih]

@[simp] theorem turnAwayAll_lastGranted (s : State) (ws : List WaitEntry) : (s.turnAwayAll ws).lastGranted = s.lastGranted := by
  induction ws generalizing s with
  | nil => rfl
  | cons h hs ih => simp [State.turnAwayAll, ih]

@[simp] theorem turnAwayAll_faultCount (s : State) (ws : List WaitEntry) : (s.turnAwayAll ws).faultCount = s.faultCount := by
  induction ws generalizing s with
  | nil => rfl
  | cons h hs ih => simp [State.turnAwayAll, ih]

@[simp] theorem turnAwayAll_pools (s : State) (ws : List WaitEntry) : (s.turnAwayAll ws).pools = s.pools := by
  induction ws generalizing s with
  | nil => rfl
  | cons h hs ih => simp [State.turnAwayAll, ih]

@[simp] theorem turnAwayAll_members (s : State) (ws : List WaitEntry) : (s.turnAwayAll ws).members = s.members := by
  induction ws generalizing s with
  | nil => rfl
  | cons h hs ih => simp [State.turnAwayAll, ih]

@[simp] theorem turnAwayAll_handles (s : State) (ws : List WaitEntry) : (s.turnAwayAll ws).handles = s.handles := by
  induction ws generalizing s with
  | nil => rfl
  | cons h hs ih => simp [State.turnAwayAll, ih]

@[simp] theorem turnAwayAll_member (s : State) (ws : List WaitEntry) (q : Port) : (s.turnAwayAll ws).member q = s.member q := by
  induction ws generalizing s with
  | nil => rfl
  | cons h hs ih => simp [State.turnAwayAll, ih]

/-! ### popUntilGood -/

@[simp] theorem popUntilGood_device (s : State) (k : PoolId) (p : Port) (hs : List HandleNo) (n : Nat) : ((popUntilGood k p hs n s).state).device = s.device := by
  induction hs generalizing n s with
  | nil => rfl
  | cons h hs ih => unfold popUntilGood; dsimp only; split <;> simp [ih]

@[simp] theorem popUntilGood_rstAsserted (s : State) (k : PoolId) (p : Port) (hs : List HandleNo) (n : Nat) : ((popUntilGood k p hs n s).state).rstAsserted = s.rstAsserted := by
  induction hs generalizing n s with
  | nil => rfl
  | cons h hs ih => unfold popUntilGood; dsimp only; split <;> simp [ih]

@[simp] theorem popUntilGood_era (s : State) (k : PoolId) (p : Port) (hs : List HandleNo) (n : Nat) : ((popUntilGood k p hs n s).state).era = s.era := by
  induction hs generalizing n s with
  | nil => rfl
  | cons h hs ih => unfold popUntilGood; dsimp only; split <;> simp [ih]

@[simp] theorem popUntilGood_divider (s : State) (k : PoolId) (p : Port) (hs : List HandleNo) (n : Nat) : ((popUntilGood k p hs n s).state).divider = s.divider := by
  induction hs generalizing n s with
  | nil => rfl
  | cons h hs ih => unfold popUntilGood; dsimp only; split <;> simp [ih]

@[simp] theorem popUntilGood_buses (s : State) (k : PoolId) (p : Port) (hs : List HandleNo) (n : Nat) : ((popUntilGood k p hs n s).state).buses = s.buses := by
  induction hs generalizing n s with
  | nil => rfl
  | cons h hs ih => unfold popUntilGood; dsimp only; split <;> simp [ih]

@[simp] theorem popUntilGood_pending (s : State) (k : PoolId) (p : Port) (hs : List HandleNo) (n : Nat) : ((popUntilGood k p hs n s).state).pending = s.pending := by
  induction hs generalizing n s with
  | nil => rfl
  | cons h hs ih => unfold popUntilGood; dsimp only; split <;> simp [ih]

@[simp] theorem popUntilGood_lease (s : State) (k : PoolId) (p : Port) (hs : List HandleNo) (n : Nat) : ((popUntilGood k p hs n s).state).lease = s.lease := by
  induction hs generalizing n s with
  | nil => rfl
  | cons h hs ih => unfold popUntilGood; dsimp only; split <;> simp [ih]

@[simp] theorem popUntilGood_lastGranted (s : State) (k : PoolId) (p : Port) (hs : List HandleNo) (n : Nat) : ((popUntilGood k p hs n s).state).lastGranted = s.lastGranted := by
  induction hs generalizing n s with
  | nil => rfl
  | cons h hs ih => unfold popUntilGood; dsimp only; split <;> simp [ih]

/-! ### Membership through the check-fault path -/

@[simp] theorem checkFault_membership (s : State) (h : HandleNo) (popped : Bool) (q : Port) :
    ((s.checkFault h popped).member q).membership = (s.member q).membership := by
  unfold State.checkFault; dsimp only; repeat' split
  all_goals simp

@[simp] theorem checkFault_evicted (s : State) (h : HandleNo) (popped : Bool) (q : Port) :
    ((s.checkFault h popped).member q).evicted = (s.member q).evicted := by
  unfold State.checkFault; dsimp only; repeat' split
  all_goals simp

@[simp] theorem sweepFault_membership (s : State) (h : HandleNo) (q : Port) :
    ((s.sweepFault h).member q).membership = (s.member q).membership := by
  simp [State.sweepFault]

@[simp] theorem answerFault_membership (s : State) (p : Port) (e : Entry) (h : HandleNo) (q : Port) :
    ((s.answerFault p e h).member q).membership = (s.member q).membership := by
  simp [State.answerFault]

@[simp] theorem updMember_membership (s : State) (p q : Port) (f : Member → Member)
    (hf : ∀ m, (f m).membership = m.membership) :
    ((s.updMember p f).member q).membership = (s.member q).membership := by
  rw [updMember_member]; split
  · subst_vars; exact hf _
  · rfl

@[simp] theorem popDelivery_membership (s : State) (p q : Port) :
    ((s.popDelivery p).member q).membership = (s.member q).membership :=
  updMember_membership s p q _ fun _ => rfl

@[simp] theorem addDelivery_membership (s : State) (p : Port) (d : Delivery) (c : DeliveryClass) (q : Port) :
    ((s.addDelivery p d c).member q).membership = (s.member q).membership :=
  updMember_membership s p q _ fun _ => rfl

@[simp] theorem dropAll_membership (s : State) (p : Port) (fuel : Nat) (q : Port) :
    ((State.dropAll p fuel s).1.member q).membership = (s.member q).membership := by
  induction fuel generalizing s with
  | zero => rfl
  | succ n ih =>
    unfold State.dropAll; dsimp only; split
    · rfl
    · split <;> simp [ih]

theorem prologue_membership (s : State) (p q : Port) :
    ((s.prologue p).1.member q).membership = if q = p then .reclaiming 0 else (s.member q).membership := by
  have e : (s.departFrom p).member q
      = (s.updMember p fun m => { m with membership := .reclaiming 0 }).member q := rfl
  simp only [State.prologue, raiseOnline_member, dropAll_membership, e, updMember_member]
  split <;> rfl

@[simp] theorem sweepOne_membership (s : State) (p : Port) (h : HandleNo) (q : Port) :
    ((s.sweepOne p h).member q).membership = (s.member q).membership := by
  unfold State.sweepOne; dsimp only; repeat' split
  all_goals simp

@[simp] theorem sweepAll_membership (s : State) (p : Port) (hs : List HandleNo) (q : Port) :
    ((s.sweepAll p hs).member q).membership = (s.member q).membership := by
  induction hs generalizing s with
  | nil => rfl
  | cons h hs ih => simp [State.sweepAll, ih]

@[simp] theorem countAll_membership (s : State) (k : PoolId) (hs : List HandleNo) (q : Port) :
    ((s.countAll k hs).member q).membership = (s.member q).membership := by
  induction hs generalizing s with
  | nil => rfl
  | cons h hs ih =>
    unfold State.countAll; split
    · rfl
    · dsimp only; rw [ih]; split <;> simp

@[simp] theorem popUntilGood_membership (s : State) (k : PoolId) (p : Port) (hs : List HandleNo) (n : Nat)
    (q : Port) : ((popUntilGood k p hs n s).state.member q).membership = (s.member q).membership := by
  induction hs generalizing n s with
  | nil => rfl
  | cons h hs ih => unfold popUntilGood; dsimp only; split <;> simp [ih]

end Sys2Proof.Machine
end

