-- ==== Sys2Proof/Laws/Bus.lean ====
section
/-! SUPPORT. What the arrivals of a port's bus change and leave alone. -/

namespace Sys2Proof.Machine

/-- The two kinds of arrival, the write first. -/
theorem arrivals_eq (b : BusPhase) (now : BusPins) :
    b.arrivals now = (if b.writeEnds now then [.write b.before.addr b.before.data] else [])
      ++ (if b.readBegins now then [.read now.addr] else []) := rfl

@[simp] theorem writeAttn_buses (s : State) (p : Port) (v : Word) : (s.writeAttn p v).buses = s.buses := rfl
@[simp] theorem writeAttnen_buses (s : State) (p : Port) (v : Word) : (s.writeAttnen p v).buses = s.buses := rfl
@[simp] theorem writeRespop_buses (s : State) (p : Port) : (s.writeRespop p).buses = s.buses := rfl

@[simp] theorem writeCmd_buses (s : State) (p : Port) (v : Word) : (s.writeCmd p v).buses = s.buses := by
  unfold State.writeCmd; dsimp only; split <;> simp

@[simp] theorem windowWrite_buses (s : State) (p : Port) (off : BitVec 4) (v : Word) :
    (s.windowWrite p off v).buses = s.buses := by
  unfold State.windowWrite; repeat' split
  all_goals simp

/-- A write leaves every bus as it is. -/
@[simp] theorem writeArrives_buses (s : State) (p : Port) (off : BitVec 4) (v : Word) :
    (s.writeArrives p off v).buses = s.buses := by
  unfold State.writeArrives; split <;> simp

@[simp] theorem writeArrives_bus (s : State) (p : Port) (off : BitVec 4) (v : Word) (q : Port) :
    (s.writeArrives p off v).bus q = s.bus q := by
  simp [State.bus]

/-- What a read does to its own bus: the word is captured. -/
@[simp] theorem readArrives_bus_self (s : State) (p : Port) (off : BitVec 4) :
    (s.readArrives p off).bus p = { s.bus p with readData := s.windowRead p off } := by
  unfold State.readArrives; rw [capture_bus_self]; split <;> rfl

theorem readArrives_bus_ne (s : State) (off : BitVec 4) {p q : Port} (h : q ≠ p) :
    (s.readArrives p off).bus q = s.bus q := by
  unfold State.readArrives; rw [capture_bus_ne _ _ h]; split <;> rfl

/-- A moment of a bus is its arrivals and then its phase. -/
theorem busMoment_eq (s : State) (p : Port) (now : BusPins) :
    s.busMoment p now
      = ((if (s.bus p).readBegins now then
            (if (s.bus p).writeEnds now then s.writeArrives p (s.bus p).before.addr (s.bus p).before.data
              else s).readArrives p now.addr
          else if (s.bus p).writeEnds now then s.writeArrives p (s.bus p).before.addr (s.bus p).before.data
          else s).updBus p fun b => b.next now) := by
  unfold State.busMoment BusPhase.arrivals
  split <;> split <;> rfl

end Sys2Proof.Machine
end

