-- ==== Sys2Proof/Laws/Checks.lean ====
section
/-! SUPPORT. The checks of commands: argument words, the lease, eligibility, token validation, and what taking a
command of each row runs. -/

namespace Sys2Proof.Machine

/-! ### Argument words -/

theorem poolArg_of {w : Word} {k : PoolId} (h : w.toNat = k.val) : poolArg w = some k := by
  have := k.isLt
  simp [poolArg, h]

theorem poolArg_none {w : Word} (h : 16 ≤ w.toNat) : poolArg w = none := by
  simp [poolArg]; omega

theorem portArg_of {w : Word} {p : Port} (h : w.toNat = p.val) : portArg w = some p := by
  have := p.isLt
  simp [portArg, h]

theorem portArg_none {w : Word} (h : 4 ≤ w.toNat) : portArg w = none := by
  simp [portArg]; omega

theorem handleArg_of {w : Word} {h : HandleNo} (e : w.toNat = h) (l : h < 4096) : handleArg w = some h := by
  simp [handleArg, e, l]

theorem handleArg_none {w : Word} (h : 4096 ≤ w.toNat) : handleArg w = none := by
  simp [handleArg]; omega

/-! ### The lease, membership and eligibility -/

theorem holdsLease_iff {s : State} {p : Port} : s.holdsLease p = true ↔ HoldsLease s p := by
  unfold State.holdsLease HoldsLease
  cases s.lease <;> simp

theorem holdsLease_of {s : State} {p : Port} (h : HoldsLease s p) : s.holdsLease p = true :=
  holdsLease_iff.2 h

theorem holdsLease_not {s : State} {p : Port} (h : ¬HoldsLease s p) : s.holdsLease p = false := by
  rw [← holdsLease_iff] at h; simpa using h

theorem isOnline_of {s : State} {p : Port} (h : (s.member p).membership = .online) : s.isOnline p = true := by
  simp [State.isOnline, h]

theorem isOnline_not {s : State} {p : Port} (h : (s.member p).membership ≠ .online) :
    s.isOnline p = false := by
  simp [State.isOnline, h]

theorem eligible_iff (s : State) (p : Port) : s.eligible p = true ↔
    (s.window p).queue ≠ []
      ∧ (s.window p).results.length + (s.window p).reserved < 8
      ∧ ∀ n, (s.member p).membership ≠ .reclaiming n := by
  unfold State.eligible
  cases h : (s.member p).membership <;> simp [Membership.isReclaiming]

theorem offered_eligible {s : State} {p : Port} {e : Entry} (h : s.offered p = some e) :
    s.eligible p = true :=
  List.find?_some (p := s.eligible) (offered_some h).2.1

theorem notOffered_of_reclaiming {s : State} {p : Port} {n : Nat}
    (h : (s.member p).membership = .reclaiming n) : s.offered p = none := by
  rcases ho : s.offered p with _ | e
  · rfl
  · exact absurd h (((eligible_iff s p).1 (offered_eligible ho)).2.2 n)

theorem notOffered_of_initializing {s : State} {p : Port} (h : s.device ≠ .ready) : s.offered p = none := by
  rcases ho : s.offered p with _ | e
  · rfl
  · exact absurd (offered_some ho).1 h

/-! ### Taking and answering a command -/

theorem taken_window (s : State) (p q : Port) :
    (s.taken p).window q = changeAt s.window p (s.window p).dequeued q := by
  unfold changeAt
  split
  · subst_vars; simp [Window.dequeued]
  · rw [taken_window_ne _ ‹_›]

/-- The next state of a command that changes the windows only by being taken and answered, part by part. -/
theorem becomes_of_answer {s u t : State} {p : Port} {re : HandleNo → HandleRec} {po : PoolId → PoolRec}
    {me : Port → Member} {le : Lease} {fc : Nat} {e : Entry} {st : Status} {d : Data}
    (ht : t = u.answer p e st d) (hd : SameDevice s u) (hr : ∀ h, u.record h = re h)
    (hp : ∀ k, u.pool k = po k) (hm : ∀ q, u.member q = me q)
    (hw : ∀ q, u.window q = (s.taken p).window q) (hl : u.lease = le) (hf : u.faultCount = fc)
    (hg : u.lastGranted = p) :
    Becomes s t re po me (changeAt s.window p ((s.window p).dequeued.posted e st d)) le fc p := by
  subst ht
  exact becomes_answered (s := s) (u := u) ⟨hd, hr, hp, hm, hw, hl, hf, hg⟩ e st d

/-! ### Token validation (R6) -/

theorem validate_valid {s : State} {t : Word} {h : HandleNo} {k : PoolId} (v : ValidToken s t h k) :
    s.validate t = .valid k := by
  obtain ⟨rfl, h2, h3, h4⟩ := v
  simp [State.validate, h2, h3, h4]

theorem withToken_holder {s : State} {p : Port} {e : Entry} {h : HandleNo} {k : PoolId}
    (v : ValidToken s e.arg0 h k) (hp : (s.record h).hold p ≠ 0) (body : HandleNo → PoolId → State) :
    s.withToken p e body = body h k := by
  have hv := validate_valid v
  obtain ⟨rfl, -⟩ := v
  simp only [State.withToken, hv, hp, if_false]

theorem withToken_fault {s : State} {p : Port} {e : Entry}
    (hv : (s.record (tokenHandle e.arg0)).verifies = false) (body : HandleNo → PoolId → State) :
    s.withToken p e body = s.answerFault p e (tokenHandle e.arg0) := by
  simp [State.withToken, State.validate, hv]

/-! ### What taking a command of each row runs -/

section
variable {s : State} {p : Port} {e : Entry}

theorem exec_leave (h : Takes s p Code.leave e) : exec (.leave p) s = .next (leaveBody p e (s.taken p)) := by
  simp only [exec, execLeave]; rw [takeCommand_takes h]

theorem exec_allocate (h : Takes s p Code.allocate e) :
    exec (.allocate p) s = .next (allocateBody p e (s.taken p)) := by
  simp only [exec, execAllocate]; rw [takeCommand_takes h]

theorem exec_release (h : Takes s p Code.release e) :
    exec (.release p) s = .next (releaseBody p e (s.taken p)) := by
  simp only [exec, execRelease]; rw [takeCommand_takes h]

theorem exec_retain (h : Takes s p Code.retain e) :
    exec (.retain p) s = .next (retainBody p e (s.taken p)) := by
  simp only [exec, execRetain]; rw [takeCommand_takes h]

theorem exec_send (h : Takes s p Code.send e) : exec (.send p) s = .next (sendBody p e (s.taken p)) := by
  simp only [exec, execSend]; rw [takeCommand_takes h]

theorem exec_take (h : Takes s p Code.take e) : exec (.take p) s = .next (takeBody p e (s.taken p)) := by
  simp only [exec, execTake]; rw [takeCommand_takes h]

theorem exec_refuse (h : Takes s p Code.refuse e) :
    exec (.refuse p) s = .next (refuseBody p e (s.taken p)) := by
  simp only [exec, execRefuse]; rw [takeCommand_takes h]

theorem exec_describe (h : Takes s p Code.describe e) :
    exec (.describe p) s = .next (describeBody p e (s.taken p)) := by
  simp only [exec, execDescribe]; rw [takeCommand_takes h]

theorem exec_inspect (h : Takes s p Code.inspect e) :
    exec (.inspect p) s = .next (inspectBody p e (s.taken p)) := by
  simp only [exec, execInspect]; rw [takeCommand_takes h]

theorem exec_watch (h : Takes s p Code.watch e) : exec (.watch p) s = .next (watchBody p e (s.taken p)) := by
  simp only [exec, execWatch]; rw [takeCommand_takes h]

theorem exec_unwatch (h : Takes s p Code.unwatch e) :
    exec (.unwatch p) s = .next (unwatchBody p e (s.taken p)) := by
  simp only [exec, execUnwatch]; rw [takeCommand_takes h]

theorem exec_cancel (h : Takes s p Code.cancel e) :
    exec (.cancel p) s = .next (cancelBody p e (s.taken p)) := by
  simp only [exec, execCancel]; rw [takeCommand_takes h]

theorem exec_poolstat (h : Takes s p Code.poolstat e) :
    exec (.poolstat p) s = .next (poolstatBody p e (s.taken p)) := by
  simp only [exec, execPoolstat]; rw [takeCommand_takes h]

theorem exec_survey (h : Takes s p Code.survey e) :
    exec (.survey p) s = .next (surveyBody p e (s.taken p)) := by
  simp only [exec, execSurvey]; rw [takeCommand_takes h]

theorem exec_lease (h : Takes s p Code.lease e) : exec (.lease p) s = .next (leaseBody p e (s.taken p)) := by
  simp only [exec, execLease]; rw [takeCommand_takes h]

theorem exec_unlease (h : Takes s p Code.unlease e) :
    exec (.unlease p) s = .next (unleaseBody p e (s.taken p)) := by
  simp only [exec, execUnlease]; rw [takeCommand_takes h]

theorem exec_create (h : Takes s p Code.create e) :
    exec (.create p) s = .next (createBody p e (s.taken p)) := by
  simp only [exec, execCreate]; rw [takeCommand_takes h]

theorem exec_quota (h : Takes s p Code.quota e) : exec (.quota p) s = .next (quotaBody p e (s.taken p)) := by
  simp only [exec, execQuota]; rw [takeCommand_takes h]

theorem exec_close (h : Takes s p Code.close e) : exec (.close p) s = .next (closeBody p e (s.taken p)) := by
  simp only [exec, execClose]; rw [takeCommand_takes h]

theorem exec_recount (h : Takes s p Code.recount e) :
    exec (.recount p) s = .next (recountBody p e (s.taken p)) := by
  simp only [exec, execRecount]; rw [takeCommand_takes h]

theorem exec_retire (h : Takes s p Code.retire e) :
    exec (.retire p) s = .next (retireBody p e (s.taken p)) := by
  simp only [exec, execRetire]; rw [takeCommand_takes h]

theorem exec_restore (h : Takes s p Code.restore e) :
    exec (.restore p) s = .next (restoreBody p e (s.taken p)) := by
  simp only [exec, execRestore]; rw [takeCommand_takes h]

theorem exec_evict (h : Takes s p Code.evict e) : exec (.evict p) s = .next (evictBody p e (s.taken p)) := by
  simp only [exec, execEvict]; rw [takeCommand_takes h]

end

end Sys2Proof.Machine
end

