-- ==== Sys2Proof/Laws/Pools.lean ====
section
/-! SUPPORT. What CREATE, RETIRE and the pops of an ALLOCATE do to records and pools, as one lemma each. -/

namespace Sys2Proof.Machine

theorem updPool_pool_changeAt (s : State) (k j : PoolId) (f : PoolRec → PoolRec) :
    (s.updPool k f).pool j = changeAt s.pool k (f (s.pool k)) j :=
  (updPool_meets s k f).pool j

theorem popDelivery_member (s : State) (p q : Port) : (s.popDelivery p).member q
    = changeAt s.member p { s.member p with inbound := (s.member p).inbound.tail } q := by
  unfold changeAt; split
  · subst_vars; simp
  · rw [popDelivery_member_ne _ ‹_›]

theorem freeAll_record {s : State} (hd : s.device = .ready) (k : PoolId) (hs : List HandleNo)
    (hn : hs.Nodup) (j : HandleNo) : (s.freeAll k hs).record j
      = if j ∈ hs then HandleRec.blank (.free k) (s.record j).gen else s.record j := by
  induction hs generalizing s with
  | nil => simp [State.freeAll]
  | cons h hs ih =>
    simp only [List.nodup_cons] at hn
    simp only [State.freeAll]
    rw [ih (by exact hd) hn.2, writeRecord_record hd]
    by_cases hj : j = h
    · subst hj; simp [hn.1]
    · simp [hj]

/-- The pops of an ALLOCATE leave the wait lists as they were. -/
theorem Pops.waitLists {p : Port} {k : PoolId} {s t : State} {o : Option HandleNo} {n : Nat}
    (h : Pops p k s t o n) : t.device = s.device ∧ ∀ j, (t.pool j).waitList = (s.pool j).waitList := by
  induction h with
  | empty s h => exact ⟨rfl, fun _ => rfl⟩
  | good s t h rest hs hv b =>
    refine ⟨b.device, fun j => ?_⟩
    rw [b.pool]; unfold changeAt; split
    · subst_vars; rfl
    · rfl
  | faulty s a b c t h rest o n hs hv ba fb bc _ ih =>
    refine ⟨ih.1.trans (bc.device.trans (fb.same.1.trans ba.device)), fun j => ?_⟩
    rw [ih.2, bc.pool]
    have : (a.pool j).waitList = (s.pool j).waitList := by
      rw [ba.pool]; unfold changeAt; split
      · subst_vars; rfl
      · rfl
    rw [← this]
    rcases hp : a.poolOf h with _ | i
    · rw [(fb.1 hp).pool]
    · obtain ⟨u, hb, -, c2⟩ := fb.2 i hp
      rw [c2 (by simp), hb.pool]
      unfold changeAt; split
      · subst_vars; simp [PoolRec.afterFault]
      · rfl

/-! ### The charges of the holders (R44 step 1) -/

/-- A vector with one component lowered where the flag is set. -/
def lowerAt (v : Vector Nat 4) (b : Bool) (x : Port) : Vector Nat 4 :=
  if b then v.set x.val (v[x] - 1) x.isLt else v

theorem lowerAt_all (v : Vector Nat 4) (b : Port → Bool) :
    lowerAt (lowerAt (lowerAt (lowerAt v (b 0) 0) (b 1) 1) (b 2) 2) (b 3) 3
      = Vector.ofFn fun p : Port => if b p then v[p] - 1 else v[p] := by
  ext i hi
  have : i = 0 ∨ i = 1 ∨ i = 2 ∨ i = 3 := by omega
  rcases this with rfl | rfl | rfl | rfl <;> cases h0 : b 0 <;> cases h1 : b 1 <;> cases h2 : b 2 <;>
    cases h3 : b 3 <;> simp [lowerAt, h0, h1, h2, h3]

/-- The pool record after one port's charge has fallen if it holds the handle. -/
def PoolRec.lowerHeld (q : PoolRec) (h : HandleNo) (r : HandleRec) (x : Port) : PoolRec :=
  if r.hold x ≠ 0 then q.adjustCharge h x (· - 1) else q

theorem lowerHeld_eq (q : PoolRec) (h : HandleNo) (r : HandleRec) (x : Port) :
    q.lowerHeld h r x =
      { q with
        charge := lowerAt q.charge (decide (r.hold x ≠ 0)) x
        recount := q.recount.map fun rc =>
          if h < rc.pointer then { rc with shadow := lowerAt rc.shadow (decide (r.hold x ≠ 0)) x } else rc } := by
  rcases q with ⟨a1, a2, a3, a4, a5, a6, ch, a8, rc, a10, a11, a12⟩
  by_cases hx : r.hold x = 0
  · rcases rc with _ | rc <;> simp [PoolRec.lowerHeld, hx, lowerAt]
  · simp [PoolRec.lowerHeld, hx, lowerAt, PoolRec.adjustCharge]

theorem lowerHeld_all (q : PoolRec) (h : HandleNo) (r : HandleRec) :
    (((q.lowerHeld h r 0).lowerHeld h r 1).lowerHeld h r 2).lowerHeld h r 3 = q.withoutHolders h r := by
  rw [lowerHeld_eq q, lowerHeld_eq _ h r 1, lowerHeld_eq _ h r 2, lowerHeld_eq _ h r 3]
  have e : ∀ v : Vector Nat 4, (Vector.ofFn fun p : Port => if r.hold p = 0 then v[p] else v[p] - 1)
      = Vector.ofFn fun p : Port => if decide (r.hold p ≠ 0) = true then v[p] - 1 else v[p] := by
    intro v; congr 1; funext x; by_cases r.hold x = 0 <;> simp [*]
  unfold PoolRec.withoutHolders
  rcases q with ⟨a1, a2, a3, a4, a5, a6, ch, a8, rc, a10, a11, a12⟩
  dsimp only
  rw [e ch, ← lowerAt_all ch (fun x => decide (r.hold x ≠ 0))]
  rcases rc with _ | rc
  · rfl
  · by_cases hl : h < rc.pointer
    · simp only [Option.map_some, hl, if_true]
      rw [e rc.shadow, ← lowerAt_all rc.shadow (fun x => decide (r.hold x ≠ 0))]
    · simp only [Option.map_some, hl, if_false]

theorem lowerIfHeld_meets (s : State) (k : PoolId) (h : HandleNo) (r : HandleRec) (x : Port) :
    Becomes s (s.lowerIfHeld k h r x) (pool := changeAt s.pool k ((s.pool k).lowerHeld h r x)) := by
  unfold State.lowerIfHeld PoolRec.lowerHeld
  by_cases hx : r.hold x = 0
  · simp only [hx, if_true, ne_eq, not_true_eq_false, if_false, changeAt_id]
    exact Becomes.refl s
  · simp only [hx, if_false, ne_eq, not_false_eq_true, if_true]
    exact updPool_meets s k _

/-- The charge of every holder falls by 1 (R44 step 1). -/
theorem lowerHolders_meets (s : State) (k : PoolId) (h : HandleNo) (r : HandleRec) :
    Becomes s ((((s.lowerIfHeld k h r 0).lowerIfHeld k h r 1).lowerIfHeld k h r 2).lowerIfHeld k h r 3)
      (pool := changeAt s.pool k ((s.pool k).withoutHolders h r)) := by
  have step : ∀ (a b : State) (q q' : PoolRec), Becomes s a (pool := changeAt s.pool k q) →
      Becomes a b (pool := changeAt a.pool k q') → Becomes s b (pool := changeAt s.pool k q') := by
    intro a b q q' h1 h2
    refine ⟨h1.same.trans h2.same, fun j => (h2.record j).trans (h1.record j), fun j => ?_,
      fun j => (h2.member j).trans (h1.member j), fun j => (h2.window j).trans (h1.window j),
      h2.lease.trans h1.lease, h2.faultCount.trans h1.faultCount, h2.lastGranted.trans h1.lastGranted⟩
    rw [h2.pool]
    by_cases hj : j = k
    · subst hj; simp
    · rw [changeAt_ne _ hj, changeAt_ne _ hj, h1.pool, changeAt_ne _ hj]
  have h0 := lowerIfHeld_meets s k h r 0
  have h1 := step _ _ _ _ h0 (lowerIfHeld_meets _ k h r 1)
  rw [h0.pool, changeAt_self] at h1
  have h2 := step _ _ _ _ h1 (lowerIfHeld_meets _ k h r 2)
  rw [h1.pool, changeAt_self] at h2
  have h3 := step _ _ _ _ h2 (lowerIfHeld_meets _ k h r 3)
  rw [h2.pool, changeAt_self, lowerHeld_all] at h3
  exact h3

end Sys2Proof.Machine
end

