-- ==== Sys2Proof/Tests/Slice0.lean ====
section
/-! SUPPORT. Tests: the check on commands, one event of each row on a small state (the spec's worked examples
where they give one), and, for each statement with hypotheses, states and operands that meet them. -/

namespace Sys2Proof.Tests

set_option Elab.async false

open Sys2Proof.Machine

/-! ### The check on commands -/

/-- REGISTER_WRITE of a location whose write has a row of its own is refused by the check. -/
theorem test_wellFormed_refuses : Instr.wellFormed (.registerWrite 0 1 0) = false
    ∧ Instr.wellFormed (.registerWrite 1 2 0) = false ∧ Instr.wellFormed (.registerWrite 2 6 0) = false
    ∧ Instr.wellFormed (.registerWrite 3 12 0) = false := by decide

theorem test_wellFormed_accepts : Instr.wellFormed (.registerWrite 0 3 0xFFFF) = true
    ∧ Instr.wellFormed (.registerWrite 3 15 0) = true ∧ Instr.wellFormed (.grant 4095) = true
    ∧ Instr.wellFormed (.commandPost 3 0xFFFF) = true := by decide

/-! ### Small states -/

/-- READY, every port ONLINE, nothing configured. -/
def ready : State :=
  { State.reset with
    device := .ready, rstAsserted := false, members := Vector.replicate 4 ⟨.online, false, ⟨[], []⟩⟩ }

/-- The state with the command `e` alone in the queue of port p. -/
def ask (s : State) (p : Port) (e : Entry) : State := s.updWindow p fun w => { w with queue := [e] }

/-- A command under tag 5. -/
def entry (code : BitVec 6) (arg0 arg1 arg2 : Word := 0) (flagA flagB : Bool := false) : Entry :=
  ⟨code, 5, flagA, flagB, arg0, arg1, arg2⟩

/-- The state with the given handle records. -/
def recorded (s : State) (l : List (HandleNo × HandleRec)) : State :=
  l.foldl (fun s x => { s with handles := Table.put x.1 x.2 s.handles }) s

/-- The state with a pool record. -/
def pooled (s : State) (k : PoolId) (q : PoolRec) : State := s.updPool k fun _ => q

/-- The state with one port record. -/
def membered (s : State) (p : Port) (m : Member) : State := s.updMember p fun _ => m

/-- An IN_USE record. -/
def used (k : PoolId) (g : BitVec 4) (a b c d : Nat) (transit : Nat := 0) : HandleRec :=
  { HandleRec.blank (.inUse k) g with holds := #v[a, b, c, d], transit := transit }

/-- A record whose entry check fails. -/
def damaged (r : HandleRec) : HandleRec := { r with verifies := false }

/-- An ACTIVE pool. -/
def active (first count : Nat) (stack : List HandleNo) (charge : Vector Nat 4) : PoolRec :=
  { PoolRec.unconfigured with
    state := .active, first := first, count := count, stack := stack, charge := charge
    quota := Vector.replicate 4 count }

/-- The state after the event. -/
def after (c : Instr) (s : State) : State :=
  match exec c s with
  | .next t => t
  | .fault _ | .refused _ => s

/-- The results in the FIFO of port p after the event. -/
def results (c : Instr) (p : Port) (s : State) : List Result := ((after c s).window p).results

/-- Port 0 holds the lease. -/
def leased : State := { ready with lease := .held 0 50 }

/-! ### Membership -/

theorem test_join : let s := membered ready 3 ⟨.offline, true, ⟨[], []⟩⟩
    (after (.join 3) (ask s 3 (entry Code.join))).member 3 = ⟨.online, false, ⟨[], []⟩⟩
    ∧ results (.join 3) 3 (ask s 3 (entry Code.join)) = [⟨Code.join, 5, .ok, { res1 := 3, res2 := 1 }⟩] := by
  decide

/-- Chapter 8, 8.7 step 14. -/
theorem test_leave : let s := ask { ready with lease := .held 1 10 } 1 (entry Code.leave)
    results (.leave 1) 1 s = [⟨Code.leave, 5, .ok, { res3 := 1 }⟩]
    ∧ (after (.leave 1) s).lease = .vacant ∧ ((after (.leave 1) s).member 1).membership = .reclaiming 0
    ∧ ((after (.leave 1) s).window 2).sticky.peer = true := by
  decide

/-- Pool 11 of Chapter 7, 7.10, with the handles of port 3. -/
def pool11 : State :=
  membered
    ((recorded
      (pooled { ready with lease := .held 2 50 } 11
        { active 0x400 16 [] #v[0, 0, 0, 3] with waitList := [⟨0, 6⟩] })
      [(0x402, used 11 3 0 0 0 2), (0x40A, used 11 0 1 0 0 1), (0x40E, used 11 1 0 0 0 1),
        (0x407, used 11 2 0 0 0 0 1)]).updWindow 0 fun w => { w with reserved := 1 })
    3 ⟨.online, false, ⟨[], [⟨0x2407, 1, .sent⟩]⟩⟩

theorem test_evict : let s := ask pool11 2 (entry Code.evict 3)
    results (.evict 2) 2 s = [⟨Code.evict, 5, .ok, { res1 := 3, res2 := 1 }⟩]
    ∧ results (.evict 2) 0 s = [⟨Code.allocate, 6, .ok, { res1 := 0x3407 }⟩]
    ∧ (after (.evict 2) s).member 3 = ⟨.reclaiming 0, true, ⟨[], []⟩⟩
    ∧ (after (.evict 2) s).record 0x407 = used 11 3 1 0 0 0
    ∧ ((after (.evict 2) s).window 1).sticky.peer = true := by
  decide +kernel

/-- Pool 11 of Chapter 7, 7.10 before step 5. -/
def sweeping : State :=
  membered
    (recorded (pooled ready 11 (active 0x400 16 [] #v[0, 0, 0, 3]))
      [(0x402, used 11 3 0 0 0 2), (0x40A, used 11 0 0 0 0 1), (0x40E, used 11 1 0 0 0 1)])
    3 ⟨.reclaiming 0x400, true, ⟨[], []⟩⟩

theorem test_reclaimStep : let t := after (.reclaimStep 3) sweeping
    (t.pool 11).stack = [0x40E, 0x40A, 0x402] ∧ (t.pool 11).charge = #v[0, 0, 0, 0]
    ∧ (t.member 3).membership = .reclaiming 0x410 ∧ t.record 0x402 = .blank (.free 11) 4 := by
  decide +kernel

theorem test_sweepCompletion :
    ((after (.sweepCompletion 1) (membered ready 1 ⟨.reclaiming 4080, true, ⟨[], []⟩⟩)).member 1)
      = ⟨.offline, true, ⟨[], []⟩⟩
    ∧ ((after (.sweepCompletion 1) (membered ready 1 ⟨.reclaiming 4064, true, ⟨[], []⟩⟩)).member 1)
      = ⟨.reclaiming 4064, true, ⟨[], []⟩⟩ := by
  decide +kernel

theorem test_portResetMembership : let t := after (.portResetMembership 3) pool11
    (t.member 3).membership = .reclaiming 0 ∧ (t.member 3).evicted = false
    ∧ (t.window 2).sticky.peer = true := by
  decide +kernel

theorem test_portResetWindow : let s := ask ready 1 (entry Code.take)
    ((after (.portResetWindow 1) s).window 1).queue = []
    ∧ ((after (.portResetWindow 1) s).window 1).resetAsserted = true
    ∧ (after (.portResetWindow 1) s).windowRead 1 0xF = 0 := by
  decide

theorem test_portResetRelease :
    (after (.portResetRelease 1) (after (.portResetWindow 1) ready)).windowRead 1 0xF = 0x4161 := by
  decide

/-- Ports 0 and 2 ONLINE, port 1 OFFLINE and evicted, port 3 RECLAIMING, port 0's lease at 50. -/
theorem test_survey :
    let s := membered (membered leased 1 ⟨.offline, true, ⟨[], []⟩⟩) 3 ⟨.reclaiming 16, false, ⟨[], []⟩⟩
    results (.survey 2) 2 (ask s 2 (entry Code.survey))
      = [⟨Code.survey, 5, .ok, { res1 := 0x0291, res2 := 0x0011, res3 := 50 }⟩] := by
  decide

theorem test_unknownCommand :
    results (.unknownCommand 2) 2 (ask ready 2 (entry 0x19)) = [⟨0x19, 5, .unknownCommand, {}⟩]
    ∧ results (.unknownCommand 2) 2 (ask (membered ready 2 .reset) 2 (entry 0)) = [⟨0, 5, .notJoined, {}⟩] := by
  decide

/-! ### Allocation (Chapter 2, 2.11 and Chapter 3, 3.8) -/

/-- Pool 5 after step 2 of 2.11. -/
def pool5 : State :=
  recorded (pooled leased 5 (active 0x040 4 [0x040, 0x041, 0x042, 0x043] #v[0, 0, 0, 0]))
    [(0x040, .blank (.free 5) 0), (0x041, .blank (.free 5) 0), (0x042, .blank (.free 5) 0),
      (0x043, .blank (.free 5) 0)]

theorem test_allocate : let s := ask pool5 1 (entry Code.allocate 5)
    results (.allocate 1) 1 s = [⟨Code.allocate, 5, .ok, { res1 := 0x0040, res3 := 3 }⟩]
    ∧ (after (.allocate 1) s).record 0x040 = used 5 0 0 1 0 0
    ∧ ((after (.allocate 1) s).pool 5).charge = #v[0, 1, 0, 0] := by
  decide +kernel

/-- Pool 4 of 3.8 before step 5. -/
def pool4 : State :=
  ((recorded
      (pooled ready 4 { active 0x300 3 [] #v[1, 1, 0, 1] with waitList := [⟨2, 3⟩, ⟨1, 7⟩] })
      [(0x300, used 4 2 1 0 0 0), (0x301, used 4 0 0 1 0 0), (0x302, used 4 5 0 0 0 1)]).updWindow 1
    fun w => { w with reserved := 1 }).updWindow 2 fun w => { w with reserved := 1 }

/-- 3.8 steps 3 and 4. -/
theorem test_allocate_empty :
    results (.allocate 1) 1 (ask pool4 1 (entry Code.allocate 4 0 0 true))
      = [⟨Code.allocate, 5, .waitBusy, { res1 := 4 }⟩]
    ∧ results (.allocate 0) 0 (ask pool4 0 (entry Code.allocate 4)) = [⟨Code.allocate, 5, .poolEmpty, {}⟩] := by
  decide +kernel

/-- 3.8 step 6; the header of a CANCELLED result under tag 3 is 3CC3h (10.7). -/
theorem test_cancel : let s := ask pool4 1 (entry Code.cancel)
    results (.cancel 1) 1 s
      = [⟨Code.allocate, 7, .cancelled, {}⟩, ⟨Code.cancel, 5, .ok, { res1 := 4, res2 := 7 }⟩]
    ∧ ((after (.cancel 1) s).pool 4).waitList = [⟨2, 3⟩] ∧ ((after (.cancel 1) s).window 1).reserved = 0
    ∧ Result.header ⟨Code.allocate, 3, .cancelled, {}⟩ = 0x3CC3 := by
  decide +kernel

/-! ### Holding -/

/-- 3.8 step 5. -/
theorem test_release : let s := ask pool4 3 (entry Code.release 0x5302)
    results (.release 3) 3 s = [⟨Code.release, 5, .ok, { res1 := 0, res2 := 1, res3 := 2, res4 := 2 }⟩]
    ∧ results (.release 3) 2 s = [⟨Code.allocate, 3, .ok, { res1 := 0x6302 }⟩]
    ∧ ((after (.release 3) s).pool 4).charge = #v[1, 1, 1, 0]
    ∧ (after (.release 3) s).record 0x302 = used 4 6 0 0 1 0 := by
  decide +kernel

/-- Chapter 1, 1.9, event 1, with port 3's two deliveries. -/
def faulty : State :=
  membered
    (recorded (pooled ready 2 (active 0x0A0 32 [0x0A0] #v[1, 0, 1, 0]))
      [(0x0B5, damaged (used 2 4 1 0 2 0 1)), (0x0A0, .blank (.free 2) 0)])
    3 ⟨.online, false, ⟨[], [⟨0x40B5, 2, .sent⟩, ⟨0x70A9, 1, .sent⟩]⟩⟩

theorem test_release_checkFault : let s := ask faulty 0 (entry Code.release 0x40B5)
    results (.release 0) 0 s = [⟨Code.release, 5, .checkFault, { res1 := 0x00B5 }⟩]
    ∧ (after (.release 0) s).record 0x0B5 = .blank (.retired 2 .check) 5
    ∧ ((after (.release 0) s).member 3).inbound = ⟨[], [⟨0x70A9, 1, .sent⟩]⟩
    ∧ ((after (.release 0) s).pool 2).retired = 1 ∧ ((after (.release 0) s).pool 2).recountNeeded = true
    ∧ ((after (.release 0) s).pool 2).charge = #v[1, 0, 1, 0]
    ∧ (after (.release 0) s).faultCount = 1 ∧ ((after (.release 0) s).window 0).sticky.fault = true := by
  decide +kernel

/-- Handle 0A3h of Chapter 1, 1.8, at generation 1, held by port 2, and on the way to RETIRED at 2. -/
def pool2 (r : HandleRec) : State :=
  recorded (pooled leased 2 (active 0x0A0 32 [0x0A4] #v[0, 1, 1, 0])) [(0x0A3, r)]

/-- 1.8 steps 2 and 7. -/
theorem test_retain :
    results (.retain 1) 1 (ask (pool2 (used 2 0 0 1 0 0)) 1 (entry Code.retain 0x00A3))
      = [⟨Code.retain, 5, .ok, { res1 := 2 }⟩]
    ∧ results (.retain 1) 1 (ask (pool2 (.blank (.free 2) 1)) 1 (entry Code.retain 0x00A3))
      = [⟨Code.retain, 5, .stale, {}⟩] := by
  decide +kernel

/-- 1.8 step 10, and a DESCRIBE of a held handle. -/
theorem test_describe :
    results (.describe 2) 2 (ask (pool2 (.blank (.retired 2 .admin) 2)) 2 (entry Code.describe 0x10A3 9 8))
      = [⟨Code.describe, 5, .retired, {}⟩]
    ∧ (after (.describe 2) (ask (pool2 (used 2 1 0 0 1 0)) 2 (entry Code.describe 0x10A3 9 8))).record 0x0A3
      = { used 2 1 0 0 1 0 with length := 9, tag := 8 } := by
  decide +kernel

/-- 1.9 event 4; and a record IN_USE with holds 1, 0, 2, 7, transit 5 and generation 9. -/
theorem test_inspect :
    results (.inspect 3) 3 (ask (pool2 (.blank (.retired 2 .check) 5)) 3 (entry Code.inspect 0x0A3))
      = [⟨Code.inspect, 5, .ok, { res1 := 0x5043 }⟩]
    ∧ results (.inspect 3) 3
        (ask (pool2 { used 2 9 1 0 2 7 5 with length := 3, tag := 4 }) 3 (entry Code.inspect 0x0A3))
      = [⟨Code.inspect, 5, .ok, { res1 := 0x9016, res2 := 0x7201, res3 := 3, res4 := 4 }⟩] := by
  decide +kernel

/-! ### Passing (Chapter 10, 10.7, and Chapter 4, 4.7) -/

theorem test_send :
    let s := ask (pool2 (used 2 5 0 0 2 0)) 2 (entry Code.send 0x50A3 0 0 true true)
    results (.send 2) 2 s = [⟨Code.send, 5, .ok, { res1 := 2, res2 := 1, res3 := 1 }⟩]
    ∧ (after (.send 2) s).windowRead 2 0 = 0x0085 ∧ (after (.send 2) s).windowRead 2 1 = 0x0001
    ∧ (after (.send 2) s).windowRead 2 7 = 0x0146 ∧ (after (.send 2) s).windowRead 0 0xE = 0x0001
    ∧ (after (.send 2) s).windowRead 0 1 = 0x0002
    ∧ Result.header ⟨Code.send, 5, .destFull, {}⟩ = 0x3546 := by
  decide +kernel

theorem test_take :
    let s := membered (pool2 (used 2 5 0 0 2 0 1)) 0 ⟨.online, false, ⟨[⟨0x50A3, 2, .sent⟩], []⟩⟩
    results (.take 0) 0 (ask s 0 (entry Code.take))
      = [⟨Code.take, 5, .ok, { res1 := 0x50A3, res2 := 0x001A }⟩]
    ∧ ((after (.take 0) (ask s 0 (entry Code.take))).pool 2).charge = #v[1, 1, 1, 0]
    ∧ (after (.take 0) (ask s 0 (entry Code.take))).record 0x0A3 = used 2 5 1 0 2 0 := by
  decide +kernel

/-- 4.7 step 5. -/
theorem test_refuse_returns :
    let s := membered (pool2 (used 2 0 1 0 0 0 1)) 1 ⟨.online, false, ⟨[], [⟨0x00A3, 0, .sent⟩]⟩⟩
    let t := after (.refuse 1) (ask s 1 (entry Code.refuse))
    (t.member 0).inbound = ⟨[], [⟨0x00A3, 1, .returned⟩]⟩ ∧ (t.member 1).inbound = ⟨[], []⟩
    ∧ (t.window 1).results = [⟨Code.refuse, 5, .ok, { res1 := 0x00A3 }⟩]
    ∧ t.record 0x0A3 = used 2 0 1 0 0 0 1 := by
  decide +kernel

/-- 4.7 step 9. -/
theorem test_refuse_drops :
    let s := membered (pool2 (used 2 0 0 0 0 0 1)) 0 ⟨.online, false, ⟨[], [⟨0x00A3, 1, .returned⟩]⟩⟩
    let t := after (.refuse 0) (ask s 0 (entry Code.refuse))
    (t.window 0).results = [⟨Code.refuse, 5, .dropped, { res1 := 0x00A3, res2 := 0x0005, res3 := 1 }⟩]
    ∧ t.record 0x0A3 = .blank (.free 2) 1 ∧ (t.pool 2).stack = [0x0A3, 0x0A4] := by
  decide +kernel

/-! ### Pools (Chapter 2, 2.11 and 2.12) -/

theorem test_create : let s := ask leased 0 (entry Code.create 5 0x040 4)
    let t := after (.create 0) s
    (t.window 0).results = [⟨Code.create, 5, .ok, {}⟩]
    ∧ t.pool 5 = { active 0x040 4 [0x040, 0x041, 0x042, 0x043] #v[0, 0, 0, 0] with retired := 0 }
    ∧ t.record 0x043 = .blank (.free 5) 0 ∧ t.record 0x044 = .initial := by
  decide +kernel

theorem test_quota : let s := ask pool5 0 (entry Code.quota 5 1 2)
    results (.quota 0) 0 s = [⟨Code.quota, 5, .ok, { res1 := 0, res2 := 4 }⟩]
    ∧ ((after (.quota 0) s).pool 5).quota = #v[4, 2, 4, 4] := by
  decide +kernel

theorem test_poolstat :
    results (.poolstat 1) 1 (ask pool4 1 (entry Code.poolstat 4))
      = [⟨Code.poolstat, 5, .ok, { res1 := 0x0021, res3 := 1, res4 := 3 }⟩]
    ∧ results (.poolstat 1) 1 (ask pool4 1 (entry Code.poolstat 4 0 0 true))
      = [⟨Code.poolstat, 5, .ok, { res1 := 0x300, res2 := 3 }⟩] := by
  decide +kernel

/-- 2.11 step 8, and a watch that the depth already reaches. -/
theorem test_watch :
    results (.watch 2) 2 (ask pool4 2 (entry Code.watch 4 2)) = [⟨Code.watch, 5, .ok, { res1 := 1 }⟩]
    ∧ results (.watch 2) 2 (ask pool5 2 (entry Code.watch 5 4))
      = [⟨Code.watch, 5, .ok, { res1 := 2, res2 := 4 }⟩]
    ∧ ((after (.watch 2) (ask pool5 2 (entry Code.watch 5 4))).window 2).watchFired = 0x0020 := by
  decide +kernel

/-- Pool 5 with port 2's watch armed at the threshold. -/
def watched (threshold : Nat) : State :=
  pool5.updPool 5 fun q => { q with watches := #v[none, none, some threshold, none] }

theorem test_unwatch : let s := ask (watched 4) 2 (entry Code.unwatch 5)
    results (.unwatch 2) 2 s = [⟨Code.unwatch, 5, .ok, { res1 := 1 }⟩]
    ∧ ((after (.unwatch 2) s).pool 5).watches = #v[none, none, none, none] := by
  decide +kernel

theorem test_watchFire : let t := after (.watchFire 5 2) (watched 4)
    (t.window 2).sticky.watch = true ∧ (t.window 2).watchFired = 0x0020
    ∧ (t.pool 5).watches = #v[none, none, none, none] := by
  decide +kernel

/-- Pool 5 before step 17 of 2.11, DRAINING or still ACTIVE. -/
def closing (st : PoolState) (stack : List HandleNo) : State :=
  recorded
    (pooled leased 5
      { active 0x040 4 stack #v[0, 0, 1, 0] with
        state := st, retired := 1, closer := if st = .draining then some 0 else none })
    [(0x043, used 5 0 0 0 1 0), (0x040, .blank (.free 5) 2), (0x042, .blank (.free 5) 1),
      (0x041, .blank (.retired 5 .admin) 1)]

/-- 2.11 step 15. -/
theorem test_close : let s := ask (closing .active [0x040, 0x042]) 0 (entry Code.close 5)
    results (.close 0) 0 s = [⟨Code.close, 5, .ok, { res1 := 1, res2 := 1 }⟩]
    ∧ ((after (.close 0) s).pool 5).state = .draining ∧ ((after (.close 0) s).pool 5).closer = some 0 := by
  decide +kernel

/-- 2.11 step 17. -/
theorem test_release_teardown : let s := ask (closing .draining [0x040, 0x042]) 2 (entry Code.release 0x0043)
    let t := after (.release 2) s
    t.pool 5 = .unconfigured ∧ t.record 0x040 = .blank .unassigned 2 ∧ t.record 0x043 = .blank .unassigned 1
    ∧ (t.window 0).sticky.pool = true
    ∧ (t.window 2).results = [⟨Code.release, 5, .ok, { res2 := 1, res3 := 1 }⟩] := by
  decide +kernel

theorem test_drainCompletion :
    (after (.drainCompletion 5) (closing .draining [0x040, 0x042, 0x043])).pool 5 = .unconfigured
    ∧ ((after (.drainCompletion 5) (closing .draining [0x040, 0x042])).pool 5).state = .draining := by
  decide +kernel

/-- Pool 9 of 2.12. -/
def pool9 : State :=
  recorded
    (pooled leased 9
      { active 0x100 8 [0x104, 0x101, 0x106, 0x100, 0x103] #v[3, 0, 0, 0] with
        watches := #v[none, none, none, some 6] })
    [(0x106, .blank (.free 9) 0), (0x102, used 9 7 1 0 0 0)]

/-- 2.12 step 1. -/
theorem test_retire_free : let s := ask pool9 0 (entry Code.retire 0x106)
    results (.retire 0) 0 s = [⟨Code.retire, 5, .ok, { res1 := 1 }⟩]
    ∧ ((after (.retire 0) s).pool 9).stack = [0x104, 0x101, 0x100, 0x103]
    ∧ ((after (.retire 0) s).pool 9).retired = 1
    ∧ (after (.retire 0) s).record 0x106 = .blank (.retired 9 .admin) 1 := by
  decide +kernel

theorem test_retire_inUse : let s := ask pool9 0 (entry Code.retire 0x102)
    results (.retire 0) 0 s = [⟨Code.retire, 5, .ok, { res1 := 2 }⟩]
    ∧ ((after (.retire 0) s).pool 9).charge = #v[2, 0, 0, 0]
    ∧ (after (.retire 0) s).record 0x102 = .blank (.retired 9 .admin) 8 := by
  decide +kernel

/-- 2.12 step 5. -/
theorem test_restore :
    let s := ask
      (recorded (pooled leased 9 { active 0x100 8 [0x104, 0x101, 0x100] #v[3, 0, 0, 0] with retired := 2 })
        [(0x103, .blank (.retired 9 .admin) 1)]) 0 (entry Code.restore 0x103)
    results (.restore 0) 0 s = [⟨Code.restore, 5, .ok, { res1 := 1 }⟩]
    ∧ ((after (.restore 0) s).pool 9).stack = [0x103, 0x104, 0x101, 0x100]
    ∧ ((after (.restore 0) s).pool 9).retired = 1
    ∧ (after (.restore 0) s).record 0x103 = .blank (.free 9) 2 := by
  decide +kernel

theorem test_grant :
    let s := (recorded (pooled ready 4 { active 0x300 3 [] #v[0, 0, 0, 0] with waitList := [⟨2, 3⟩] })
      [(0x302, used 4 5 0 0 0 0)]).updWindow 2 fun w => { w with reserved := 1 }
    ((after (.grant 0x302) s).window 2).results = [⟨Code.allocate, 3, .ok, { res1 := 0x6302 }⟩]
    ∧ (after (.grant 0x302) s).record 0x302 = used 4 6 0 0 1 0 := by
  decide +kernel

/-! ### Recount (Chapter 5, 5.6) -/

/-- Pool 8 with a recount at pointer 720h, before step 8. -/
def recounting : State :=
  recorded
    (pooled ready 8
      { active 0x700 40 [0x726, 0x727] #v[2, 2, 2, 1] with
        recountNeeded := true, retired := 1, recount := some ⟨#v[1, 1, 1, 1], 0x720, some 1, false⟩ })
    [(0x721, used 8 0 0 0 1 0), (0x724, used 8 0 0 1 0 0), (0x726, .blank (.free 8) 0)]

/-- Step 1. -/
theorem test_recount :
    let s := ask (pooled { ready with lease := .held 1 9 } 8 { active 0x700 40 [] #v[3, 2, 2, 0] with
      recountNeeded := true }) 1 (entry Code.recount 8)
    results (.recount 1) 1 s = [⟨Code.recount, 5, .ok, { res1 := 3, res2 := 1 }⟩]
    ∧ ((after (.recount 1) s).pool 8).recount = some ⟨#v[0, 0, 0, 0], 0x700, some 1, false⟩ := by
  decide +kernel

/-- Step 8. -/
theorem test_recountStep : let t := after (.recountStep 8) recounting
    (t.pool 8).charge = #v[1, 2, 2, 1] ∧ (t.pool 8).recountNeeded = false ∧ (t.pool 8).recount = none
    ∧ (t.window 1).sticky.pool = true := by
  decide +kernel

theorem test_recountCompletion : ((after (.recountCompletion 8) recounting).pool 8).charge = #v[1, 2, 2, 1] := by
  decide +kernel

/-! ### The lease (Chapter 8, 8.7) -/

/-- Steps 1 and 4. -/
theorem test_lease :
    results (.lease 0) 0 (ask ready 0 (entry Code.lease 3)) = [⟨Code.lease, 5, .ok, { res2 := 3 }⟩]
    ∧ results (.lease 0) 0 (ask { ready with lease := .held 0 2 } 0 (entry Code.lease 5))
      = [⟨Code.lease, 5, .ok, { res1 := 1, res2 := 5, res3 := 2 }⟩] := by
  decide

/-- Step 13, and an UNLEASE by the holder. -/
theorem test_unlease :
    results (.unlease 0) 0 (ask { ready with lease := .held 1 10 } 0 (entry Code.unlease))
      = [⟨Code.unlease, 5, .notLeaseHolder, { res1 := 1, res2 := 1 }⟩]
    ∧ (after (.unlease 0) (ask leased 0 (entry Code.unlease))).lease = .vacant := by
  decide

/-- Steps 2 and 10. -/
theorem test_millisecondTick :
    (after .millisecondTick { ready with lease := .held 0 3 }).lease = .held 0 2
    ∧ (after .millisecondTick { ready with lease := .held 0 1 }).lease = .vacant
    ∧ ((after .millisecondTick { ready with lease := .held 0 1 }).window 0).sticky.lease = true := by
  decide

theorem test_leaseExpiry :
    (after .leaseExpiry { ready with lease := .held 0 1 }).lease = .vacant
    ∧ (after .leaseExpiry { ready with lease := .held 0 2 }).lease = .held 0 2 := by
  decide

/-! ### The window (Chapter 10, 10.7) -/

theorem test_commandPost :
    let s := ready.updWindow 2 fun w => { w with arg0 := 0x50A3 }
    let t := after (.commandPost 2 0xFD46) s
    t.windowRead 2 0 = 0x0015 ∧ (t.window 2).queue = [entry Code.send 0x50A3 0 0 true true] := by
  decide

theorem test_commandPost_overrun :
    let s := ready.updWindow 2 fun w => { w with queue := List.replicate 4 (entry Code.take) }
    ((after (.commandPost 2 7) s).window 2).queue.length = 4
    ∧ (after (.commandPost 2 7) s).windowRead 2 1 = 0x0080 := by
  decide

theorem test_attnWrite :
    let s := ready.updWindow 1 fun w => { w with sticky := ⟨true, true, true, true, true, true⟩ }
    s.windowRead 1 1 = 0x00FC ∧ (after (.attnWrite 1 0xFF13) s).windowRead 1 1 = 0x00EC := by
  decide

theorem test_attnenWrite :
    let s := ready.updWindow 1 fun w => { w with sticky := { w.sticky with peer := true } }
    (after (.attnenWrite 1 0xFF20) s).windowRead 1 2 = 0x0020
    ∧ s.attention 1 = false ∧ (after (.attnenWrite 1 0xFF20) s).attention 1 = true := by
  decide

theorem test_respop :
    let s := ready.updWindow 1 fun w =>
      { w with results := [⟨Code.take, 0, .empty, {}⟩, ⟨Code.retain, 1, .ok, { res1 := 2 }⟩] }
    (after (.respop 1 0xFFFF) s).windowRead 1 7 = 0x0045 ∧ (after (.respop 1 0) s).windowRead 1 12 = 1 := by
  decide

theorem test_watchsetRead :
    let s := ready.updWindow 1 fun w => { w with watchFired := 0x0021, sticky := { w.sticky with watch := true } }
    ((after (.watchsetRead 1) s).bus 1).readData = 0x0021
    ∧ ((after (.watchsetRead 1) s).window 1).watchFired = 0
    ∧ ((after (.watchsetRead 1) s).window 1).sticky.watch = true := by
  decide

theorem test_registerWrite : (after (.registerWrite 1 4 0xABCD) ready).windowRead 1 4 = 0xABCD
    ∧ after (.registerWrite 1 15 0xABCD) ready = ready := by
  decide

/-! ### Start-up (Chapter 9) -/

theorem test_deviceReset : (after .deviceReset pool4).device = .initializing 0
    ∧ (after .deviceReset pool4).pool 4 = .unconfigured ∧ (after .deviceReset pool4).window 2 = .reset
    ∧ (after .deviceReset pool4).member 1 = .reset := by
  decide +kernel

theorem test_deviceResetRelease : (after .deviceResetRelease State.reset).rstAsserted = false := by decide

theorem test_initializationWrite :
    let s := { State.reset with rstAsserted := false, handles := [(0, used 1 3 1 0 0 0)] }
    (after .initializationWrite s).device = .initializing 1
    ∧ (after .initializationWrite s).record 0 = .initial := by
  decide +kernel

theorem test_deviceReady :
    (after .deviceReady { State.reset with rstAsserted := false, device := .initializing 4095 }).device = .ready
    ∧ (after .deviceReady { State.reset with rstAsserted := false, device := .initializing 4094 }).device
      = .initializing 4094 := by
  decide

/-- A step takes the event at the front; on an empty queue the block idles. -/
theorem test_step : let s := { ready with lease := .held 0 3, pending := [.millisecondTick, .leaseExpiry] }
    step s = .next { s with lease := .held 0 2, pending := [.leaseExpiry] } := rfl

/-- A write whose read strobe was low at some time of its enable does not arrive (R149). -/
theorem test_bus :
    let idle : BusPins := ⟨false, false, false, 3, 7⟩
    let write : BusPins := ⟨true, false, true, 3, 7⟩
    let both : BusPins := ⟨true, true, true, 3, 7⟩
    busCommands 1 ⟨idle, false, false, 0⟩ [write, write, idle] = [.registerWrite 1 3 7]
    ∧ busCommands 1 ⟨idle, false, false, 0⟩ [write, both, write, idle] = [] := by
  decide

/-- A read of ATTN drives the word of its arrival while a cause is set meanwhile, nothing while both strobes are
low, and nothing after its end (R149). -/
theorem test_busRead :
    let read : BusPins := ⟨true, true, false, 1, 0⟩
    let s := (ready.raise 2 .peer).busMoment 2 read
    let t := s.raise 2 .fault
    s.drivenWord 2 = some 0x0020 ∧ t.windowRead 2 1 = 0x0060 ∧ t.drivenWord 2 = some 0x0020
    ∧ (t.busMoment 2 { read with wr := true }).drivenWord 2 = none
    ∧ ((t.busMoment 2 { read with wr := true }).busMoment 2 read).drivenWord 2 = some 0x0020
    ∧ (t.busMoment 2 { read with rd := false }).drivenWord 2 = none := by
  decide

/-! ### States and operands that meet the hypotheses of the statements

One theorem for each statement with hypotheses, in the statements' order: a conjunct for each clause, at a
boundary value of its range. -/

theorem takesOf {s : State} {p : Port} {c : BitVec 6} {e : Entry}
    (h : decide (s.offered p = some e ∧ e.code = c ∧ (s.member p).membership = .online) = true) :
    Takes s p c e := by
  unfold Takes
  exact of_decide_eq_true h

theorem holdsOf {s : State} {p : Port} (h : s.holdsLease p = true) : HoldsLease s p := holdsLease_iff.1 h

theorem holdsNot {s : State} {p : Port} (h : s.holdsLease p = false) : ¬ HoldsLease s p := by
  rw [← holdsLease_iff, h]; decide

theorem notReclaiming {m : Membership} (h : m.isReclaiming = false) (n : Nat) : m ≠ .reclaiming n := by
  rintro rfl; cases h

/-- A port record of a RECLAIMING port. -/
def leaving (n : Nat) : Member := ⟨.reclaiming n, false, ⟨[], []⟩⟩

theorem test_meets_StepTakesTheFrontEvent : ({ ready with pending := [.respop 0 0] } : State).pending
    = .respop 0 0 :: [] ∧ ready.pending = [] := ⟨rfl, rfl⟩

theorem test_meets_ArbiterGrantsInTurn :
    (ask ready 3 (entry Code.take)).device = .ready ∧ (ask ready 3 (entry Code.take)).eligible 3 = true := by
  decide

theorem test_meets_CommandActsOnlyWhereOffered :
    (commandRow (.take 1)).isSome = true ∧ ready.offered 1 = none
    ∧ ((ask ready 1 (entry Code.refuse)).offered 1 = some (entry Code.refuse)
      ∧ (Code.refuse == Code.take) = false)
    ∧ ((membered ready 1 (leaving 16)).member 1).membership = .reclaiming 16
    ∧ State.reset.device ≠ .ready := by
  decide

theorem test_meets_CommandsAreCheckedBeforeTheirOwnRule :
    (let s := ask (membered ready 1 .reset) 1 (entry 0x3F);
      s.offered 1 = some (entry 0x3F) ∧ (!Code.named 0x3F) = true ∧ (s.member 1).membership = .offline
      ∧ (commandRow (.unknownCommand 1)).isSome = true ∧ (Instr.unknownCommand 1 ≠ .join 1))
    ∧ ((ask ready 1 (entry 0)).offered 1 = some (entry 0) ∧ (ready.member 1).membership = .online
      ∧ (entry 0).code = 0)
    ∧ ((ask ready 1 (entry 0x19)).offered 1 = some (entry 0x19) ∧ 0x19 ≤ (entry 0x19).code.toNat) := by
  decide

theorem test_meets_JoinMakesThePortOnline :
    (let s := ask (membered ready 1 .reset) 1 (entry Code.join);
      s.offered 1 = some (entry Code.join) ∧ (entry Code.join).code = Code.join
      ∧ (s.member 1).membership = .offline)
    ∧ Takes (ask ready 1 (entry Code.join)) 1 Code.join (entry Code.join)
    ∧ ((membered ready 1 (leaving 0)).member 1).membership = .reclaiming 0 :=
  ⟨by decide, takesOf rfl, by decide⟩

theorem test_meets_LeaveDeparts : Takes (ask pool11 3 (entry Code.leave)) 3 Code.leave (entry Code.leave) :=
  takesOf rfl

theorem test_meets_EvictDeparts : let s := ask pool11 2 (entry Code.evict 3);
    Takes s 2 Code.evict (entry Code.evict 3) ∧ HoldsLease s 2
    ∧ (entry Code.evict 3).arg0.toNat = (3 : Port).val ∧ (3 : Port) ≠ 2
    ∧ (s.member 3).membership = .online :=
  ⟨takesOf rfl, holdsOf rfl, rfl, by decide, rfl⟩

theorem test_meets_PortResetDeparts : pool11.device = .ready ∧ (pool11.member 3).membership = .online
    ∧ ((membered ready 1 .reset).member 1).membership ≠ .online
    ∧ (State.reset.member 3).membership ≠ .online ∧ State.reset.device ≠ .ready := by decide

theorem test_meets_DepartureLeavesNothingOutsideTheTable :
    Departs pool11 (pool11.prologue 3).1 3 (pool11.prologue 3).2.dropped ∧ ¬ HoldsLease pool11 3
    ∧ (pool11.member 0).membership = .online
    ∧ ∀ d ∈ (pool11.member 3).inbound.urgent ++ (pool11.member 3).inbound.normal,
        (pool11.record (tokenHandle d.token)).verifies = true :=
  ⟨prologue_meets rfl 3, holdsNot rfl, rfl, by decide +kernel⟩

theorem test_meets_MembershipMovesAsListed :
    exec (.respop 0 0) ready = .next (after (.respop 0 0) ready) := rfl

theorem test_meets_SurveyReports :
    (let s := ask (membered ready 1 .reset) 1 (entry Code.survey);
      s.offered 1 = some (entry Code.survey) ∧ (entry Code.survey).code = Code.survey
      ∧ (s.member 1).membership = .offline)
    ∧ Takes (ask ready 2 (entry Code.survey)) 2 Code.survey (entry Code.survey)
    ∧ (ask ready 2 (entry Code.survey)).lease = .vacant
    ∧ Takes (ask leased 2 (entry Code.survey)) 2 Code.survey (entry Code.survey)
    ∧ (ask leased 2 (entry Code.survey)).lease = .held 0 50 :=
  ⟨by decide, takesOf rfl, rfl, takesOf rfl, rfl⟩

theorem test_meets_AllocatePopsTheTop :
    let e := entry Code.allocate 5;
    let s := ask pool5 1 e;
    Takes s 1 Code.allocate e ∧ e.arg0.toNat = (5 : PoolId).val ∧ (s.pool 5).state = .active
    ∧ (s.pool 5).charge[(1 : Port)] < (s.pool 5).quota[(1 : Port)]
    ∧ (s.pool 5).stack = 0x040 :: [0x041, 0x042, 0x043] ∧ (s.record 0x040).verifies = true :=
  ⟨takesOf rfl, rfl, rfl, by decide, rfl, rfl⟩

/-- With a handle on the stack; and with the empty stack of pool 4, without WAIT, waiting twice, and waiting. -/
theorem test_meets_AllocateEndsItsPops :
    (let e := entry Code.allocate 5;
      let s := ask pool5 1 e;
      Takes s 1 Code.allocate e ∧ e.arg0.toNat = (5 : PoolId).val ∧ (s.pool 5).state = .active
      ∧ (s.pool 5).charge[(1 : Port)] < (s.pool 5).quota[(1 : Port)])
    ∧ (let e := entry Code.allocate 4;
      let s := ask pool4 1 e;
      Takes s 1 Code.allocate e ∧ e.arg0.toNat = (4 : PoolId).val ∧ (s.pool 4).state = .active
      ∧ (s.pool 4).charge[(1 : Port)] < (s.pool 4).quota[(1 : Port)] ∧ e.flagA = false)
    ∧ (let e := entry Code.allocate 4 0 0 true;
      let s := ask pool4 1 e;
      Takes s 1 Code.allocate e ∧ e.flagA = true ∧ s.waitEntryOf 1 = some (4, ⟨1, 7⟩))
    ∧ (let e := entry Code.allocate 4 0 0 true;
      let s := ask pool4 0 e;
      Takes s 0 Code.allocate e ∧ e.flagA = true ∧ s.waitEntryOf 0 = none
      ∧ (s.pool 4).charge[(0 : Port)] < (s.pool 4).quota[(0 : Port)]) :=
  ⟨⟨takesOf rfl, rfl, rfl, by decide⟩, ⟨takesOf rfl, rfl, rfl, by decide, rfl⟩, ⟨takesOf rfl, rfl, rfl⟩,
    takesOf rfl, rfl, rfl, by decide⟩

theorem test_meets_CancelEndsTheWait :
    (let s := ask (membered ready 1 .reset) 1 (entry Code.cancel);
      s.offered 1 = some (entry Code.cancel) ∧ (entry Code.cancel).code = Code.cancel
      ∧ (s.member 1).membership = .offline) ∧
    (Takes (ask pool4 0 (entry Code.cancel)) 0 Code.cancel (entry Code.cancel)
      ∧ (ask pool4 0 (entry Code.cancel)).waitEntryOf 0 = none)
    ∧ Takes (ask pool4 1 (entry Code.cancel)) 1 Code.cancel (entry Code.cancel)
    ∧ (ask pool4 1 (entry Code.cancel)).waitEntryOf 1 = some (4, ⟨1, 7⟩) :=
  ⟨by decide, ⟨takesOf rfl, rfl⟩, takesOf rfl, rfl⟩

theorem test_meets_ReleaseGivesBackOneHold :
    let e := entry Code.release 0x5302;
    let s := ask pool4 3 e;
    Takes s 3 Code.release e ∧ ValidToken s e.arg0 0x302 4 ∧ (s.record 0x302).hold 3 ≠ 0 :=
  ⟨takesOf rfl, ⟨rfl, rfl, rfl, rfl⟩, by decide⟩

/-- Handle 0A3h held by port 2 with the given hold, and a command naming its token 5.0A3h from port 2. -/
def held (hold : Nat) (e : Entry) : State := ask (pool2 (used 2 5 0 0 hold 0)) 2 e

theorem test_meets_RetainAddsOneHold : let e := entry Code.retain 0x50A3;
    (Takes (held 6 e) 2 Code.retain e ∧ ValidToken (held 6 e) e.arg0 0x0A3 2
      ∧ ((held 6 e).record 0x0A3).hold 2 ≠ 0 ∧ ((held 6 e).record 0x0A3).hold 2 ≠ 7)
    ∧ Takes (held 7 e) 2 Code.retain e ∧ ValidToken (held 7 e) e.arg0 0x0A3 2
    ∧ ((held 7 e).record 0x0A3).hold 2 = 7 :=
  ⟨⟨takesOf rfl, ⟨rfl, rfl, rfl, rfl⟩, by decide, by decide⟩, takesOf rfl, ⟨rfl, rfl, rfl, rfl⟩, rfl⟩

theorem test_meets_DescribeReplacesTheWords : let e := entry Code.describe 0x50A3 9 8;
    Takes (held 1 e) 2 Code.describe e ∧ ValidToken (held 1 e) e.arg0 0x0A3 2
    ∧ ((held 1 e).record 0x0A3).hold 2 ≠ 0 :=
  ⟨takesOf rfl, ⟨rfl, rfl, rfl, rfl⟩, by decide⟩

/-- The four commands, and the six cases of the record for the token 5.0A3h. -/
theorem test_meets_TokenCommandsRefuse :
    (∀ x ∈ [(Instr.release 2, Code.release), (.retain 2, Code.retain), (.describe 2, Code.describe),
      (.send 2, Code.send)], Takes (held 1 (entry x.2 0x50A3)) 2 x.2 (entry x.2 0x50A3))
    ∧ tokenHandle 0x50A3 = 0x0A3 ∧ tokenGen 0x50A3 = 5
    ∧ (∀ r ∈ [HandleRec.blank (.retired 2 .admin) 6, .blank (.retired 2 .check) 7, .blank .unassigned 5,
        .blank (.free 2) 5, used 2 6 0 0 1 0, used 2 5 1 0 0 0],
        (ask (pool2 r) 2 (entry Code.send 0x50A3)).record 0x0A3 = r ∧ r.verifies = true
        ∧ (ask (pool2 r) 2 (entry Code.send 0x50A3)).offered 2 = some (entry Code.send 0x50A3))
    ∧ (5 : BitVec 4) = 6 - 1 ∧ (5 : BitVec 4) ≠ 7 - 1 ∧ (5 : BitVec 4) ≠ 6 ∧ (used 2 5 1 0 0 0).hold 2 = 0 := by
  refine ⟨fun x hx => ?_, by decide, by decide, by decide +kernel, by decide, by decide, by decide, by decide⟩
  simp only [List.mem_cons, List.not_mem_nil, or_false] at hx
  rcases hx with rfl | rfl | rfl | rfl <;> exact takesOf rfl

theorem test_meets_InspectReports :
    (let e := entry Code.inspect 4096;
      Takes (ask ready 1 e) 1 Code.inspect e ∧ 4096 ≤ e.arg0.toNat)
    ∧ (let e := entry Code.inspect 4095;
      Takes (ask ready 1 e) 1 Code.inspect e ∧ e.arg0.toNat < 4096
      ∧ ((ask ready 1 e).record e.arg0.toNat).verifies = true) :=
  ⟨⟨takesOf rfl, by decide⟩, takesOf rfl, by decide, rfl⟩

/-- Handle 0A3h with a damaged record, a delivery of it at port 2, and the lease with port 2. -/
def broken (e : Entry) : State :=
  ask { membered (pool2 (damaged (used 2 5 0 0 1 0 1))) 2 ⟨.online, false, ⟨[], [⟨0x50A3, 1, .sent⟩]⟩⟩ with
    lease := .held 2 9 } 2 e

/-- Each of the ten rows, on a record that fails its entry check. -/
theorem test_meets_CheckFaultIsAnswered :
    ReadsRecord (.release 2) (broken (entry Code.release 0x50A3)) 2 (entry Code.release 0x50A3) 0x0A3
    ∧ ReadsRecord (.retain 2) (broken (entry Code.retain 0x50A3)) 2 (entry Code.retain 0x50A3) 0x0A3
    ∧ ReadsRecord (.describe 2) (broken (entry Code.describe 0x50A3)) 2 (entry Code.describe 0x50A3) 0x0A3
    ∧ ReadsRecord (.send 2) (broken (entry Code.send 0x50A3)) 2 (entry Code.send 0x50A3) 0x0A3
    ∧ ReadsRecord (.inspect 2) (broken (entry Code.inspect 0x0A3)) 2 (entry Code.inspect 0x0A3) 0x0A3
    ∧ ReadsRecord (.retire 2) (broken (entry Code.retire 0x0A3)) 2 (entry Code.retire 0x0A3) 0x0A3
    ∧ ReadsRecord (.restore 2) (broken (entry Code.restore 0x0A3)) 2 (entry Code.restore 0x0A3) 0x0A3
    ∧ ReadsRecord (.take 2) (broken (entry Code.take)) 2 (entry Code.take) 0x0A3
    ∧ ReadsRecord (.refuse 2) (broken (entry Code.refuse)) 2 (entry Code.refuse) 0x0A3
    ∧ ReadsRecord (.create 2) (broken (entry Code.create 1 0x0A3 1)) 2 (entry Code.create 1 0x0A3 1) 0x0A3
    ∧ ((broken (entry Code.take)).record 0x0A3).verifies = false :=
  ⟨⟨rfl, takesOf rfl, rfl⟩, ⟨rfl, takesOf rfl, rfl⟩, ⟨rfl, takesOf rfl, rfl⟩, ⟨rfl, takesOf rfl, rfl⟩,
    ⟨rfl, takesOf rfl, rfl, by decide⟩, ⟨rfl, takesOf rfl, rfl, by decide, holdsOf rfl⟩,
    ⟨rfl, takesOf rfl, rfl, by decide, holdsOf rfl⟩, ⟨rfl, takesOf rfl, _, _, rfl, rfl⟩,
    ⟨rfl, takesOf rfl, _, _, rfl, rfl⟩,
    ⟨rfl, takesOf rfl, holdsOf rfl, ⟨1, rfl, rfl⟩, by decide, by decide, by decide, by decide, fun j h h' => by
      change 0x0A3 ≤ (j : Nat) at h
      change (j : Nat) < 0x0A3 at h'
      omega⟩, rfl⟩

/-- The queue of n deliveries of the token. -/
def queueOf (n : Nat) : Member := ⟨.online, false, ⟨[], List.replicate n ⟨0x50A3, 2, .sent⟩⟩⟩

/-- A SEND without KEEP of a hold of 1 to a queue of 31 with transit 6. -/
theorem test_meets_SendPlacesADelivery :
    let e := entry Code.send 0x50A3 0;
    let s := ask (membered (pool2 (used 2 5 0 0 1 0 6)) 0 (queueOf 31)) 2 e;
    Takes s 2 Code.send e ∧ ValidToken s e.arg0 0x0A3 2 ∧ (s.record 0x0A3).hold 2 ≠ 0
    ∧ e.arg1.toNat = (0 : Port).val ∧ (0 : Port) ≠ 2 ∧ (s.member 0).membership = .online
    ∧ (s.member 0).inbound.size < 32 ∧ (s.record 0x0A3).transit ≠ 7
    ∧ 0 = (if e.flagA then (s.record 0x0A3).hold 2 else (s.record 0x0A3).hold 2 - 1) :=
  ⟨takesOf rfl, ⟨rfl, rfl, rfl, rfl⟩, by decide, rfl, by decide, rfl, by decide, by decide, rfl⟩

theorem test_meets_TakeAcceptsTheDelivery :
    let e := entry Code.take;
    let s := ask (membered (pool2 (used 2 5 6 0 2 0 1)) 0 ⟨.online, false, ⟨[⟨0x50A3, 2, .sent⟩], []⟩⟩) 0 e;
    Takes s 0 Code.take e ∧ (s.member 0).inbound.chosen = some (⟨0x50A3, 2, .sent⟩, .urgent)
    ∧ tokenHandle 0x50A3 = 0x0A3 ∧ (s.record 0x0A3).verifies = true ∧ (s.record 0x0A3).state = .inUse 2
    ∧ (s.record 0x0A3).hold 0 ≠ 7 :=
  ⟨takesOf rfl, rfl, rfl, rfl, rfl, by decide⟩

/-- A sender whose queue holds 31 deliveries, and a port that sent to itself through an earlier token. -/
theorem test_meets_RefuseReturnsTheDelivery :
    let e := entry Code.refuse;
    let s := ask (membered (membered (pool2 (used 2 5 0 0 1 0 1)) 2 (queueOf 31)) 1
      ⟨.online, false, ⟨[], [⟨0x50A3, 2, .sent⟩]⟩⟩) 1 e;
    Takes s 1 Code.refuse e ∧ (s.member 1).inbound.chosen = some (⟨0x50A3, 2, .sent⟩, .normal)
    ∧ (s.record (tokenHandle 0x50A3)).verifies = true ∧ (s.member 2).membership = .online
    ∧ (s.member 2).inbound.size < 32 :=
  ⟨takesOf rfl, rfl, rfl, rfl, by decide⟩

/-- Port 1 with one delivery, and port 2 as given. -/
def refusing (d : Delivery) (m : Member) : State :=
  ask (membered (membered (pool2 (used 2 5 0 0 1 0 1)) 2 m) 1 ⟨.online, false, ⟨[], [d]⟩⟩) 1 (entry Code.refuse)

/-- A RETURNED delivery; a sender that is RECLAIMING; a sender whose queue is full. -/
theorem test_meets_RefuseDropsTheDelivery :
    (∀ x ∈ [((⟨0x50A3, 2, .returned⟩ : Delivery), queueOf 0), (⟨0x50A3, 2, .sent⟩, leaving 0),
        (⟨0x50A3, 2, .sent⟩, queueOf 32)],
      (refusing x.1 x.2).offered 1 = some (entry Code.refuse)
      ∧ ((refusing x.1 x.2).member 1).membership = .online
      ∧ ((refusing x.1 x.2).member 1).inbound.chosen = some (x.1, .normal)
      ∧ tokenHandle x.1.token = 0x0A3 ∧ ((refusing x.1 x.2).record 0x0A3).verifies = true
      ∧ (x.1.kind = .returned ∨ ((refusing x.1 x.2).member x.1.sender).membership ≠ .online
        ∨ 32 ≤ ((refusing x.1 x.2).member x.1.sender).inbound.size)) := by
  decide +kernel

/-- A CREATE over the whole table. -/
theorem test_meets_CreateConfiguresThePool :
    let e := entry Code.create 15 0 4096;
    let s := ask leased 0 e;
    Takes s 0 Code.create e ∧ HoldsLease s 0 ∧ e.arg0.toNat = (15 : PoolId).val ∧ e.arg1.toNat = 0
    ∧ e.arg2.toNat = 4096 ∧ 1 ≤ 4096 ∧ 4096 ≤ 4096 ∧ 0 + 4096 ≤ 4096
    ∧ (s.pool 15).state = .unconfigured
    ∧ ∀ h, 0 ≤ h → h < 0 + 4096 → (s.record h).verifies = true ∧ (s.record h).state = .unassigned :=
  ⟨takesOf rfl, holdsOf rfl, rfl, rfl, rfl, by decide, by decide, by decide, rfl, fun _ _ _ => ⟨rfl, rfl⟩⟩

theorem test_meets_QuotaIsReplaced :
    (∀ e ∈ [entry Code.quota 16 0 0, entry Code.quota 0 4 0, entry Code.quota 0 0 4097],
      (ask leased 0 e).offered 0 = some e ∧ e.code = Code.quota
      ∧ ((ask leased 0 e).member 0).membership = .online
      ∧ (16 ≤ e.arg0.toNat ∨ 4 ≤ e.arg1.toNat ∨ 4096 < e.arg2.toNat))
    ∧ (let e := entry Code.quota 5 3 4096;
      (Takes (ask pool5 1 e) 1 Code.quota e ∧ e.arg0.toNat = (5 : PoolId).val
        ∧ e.arg1.toNat = (3 : Port).val ∧ e.arg2.toNat ≤ 4096 ∧ ¬ HoldsLease (ask pool5 1 e) 1)
      ∧ (Takes (ask leased 0 e) 0 Code.quota e ∧ HoldsLease (ask leased 0 e) 0
        ∧ ((ask leased 0 e).pool 5).state = .unconfigured)
      ∧ Takes (ask pool5 0 e) 0 Code.quota e ∧ HoldsLease (ask pool5 0 e) 0
      ∧ ((ask pool5 0 e).pool 5).state ≠ .unconfigured) :=
  ⟨by decide, ⟨takesOf rfl, rfl, rfl, by decide, holdsNot rfl⟩, ⟨takesOf rfl, holdsOf rfl, rfl⟩,
    takesOf rfl, holdsOf rfl, by decide⟩

theorem test_meets_PoolstatReports :
    (let e := entry Code.poolstat 16;
      Takes (ask ready 1 e) 1 Code.poolstat e ∧ 16 ≤ e.arg0.toNat)
    ∧ (let e := entry Code.poolstat 15;
      Takes (ask ready 1 e) 1 Code.poolstat e ∧ e.arg0.toNat = (15 : PoolId).val ∧ e.flagA = false)
    ∧ (let e := entry Code.poolstat 0 0 0 true;
      Takes (ask ready 1 e) 1 Code.poolstat e ∧ e.arg0.toNat = (0 : PoolId).val ∧ e.flagA = true) :=
  ⟨⟨takesOf rfl, by decide⟩, ⟨takesOf rfl, rfl, rfl⟩, takesOf rfl, rfl, rfl⟩

/-- Pool 5 of state st with the free handles 040h and 042h, and a WATCH of it with threshold n from port 1. -/
def watching (st : PoolState) (n : Word) : State := ask (closing st [0x040, 0x042]) 1 (entry Code.watch 5 n)

/-- Pool 16; an UNCONFIGURED pool; a DRAINING pool; thresholds 0 and count + 1; a threshold one above the depth;
thresholds below the depth and equal to depth and count. -/
theorem test_meets_WatchArmsOrFires :
    (Takes (ask ready 1 (entry Code.watch 16 1)) 1 Code.watch (entry Code.watch 16 1)
      ∧ 16 ≤ (entry Code.watch 16 1).arg0.toNat)
    ∧ (Takes (ask ready 1 (entry Code.watch 15 1)) 1 Code.watch (entry Code.watch 15 1)
      ∧ (ready.pool 15).state = .unconfigured)
    ∧ (Takes (watching .draining 1) 1 Code.watch (entry Code.watch 5 1)
      ∧ ((watching .draining 1).pool 5).state = .draining)
    ∧ (Takes (watching .active 0) 1 Code.watch (entry Code.watch 5 0)
      ∧ ((watching .active 0).pool 5).state = .active)
    ∧ (Takes (watching .active 5) 1 Code.watch (entry Code.watch 5 5)
      ∧ ((watching .active 5).pool 5).state = .active)
    ∧ (Takes (watching .active 3) 1 Code.watch (entry Code.watch 5 3)
      ∧ ((watching .active 3).pool 5).count = 4 ∧ ((watching .active 3).pool 5).depth = 2)
    ∧ (Takes (watching .active 1) 1 Code.watch (entry Code.watch 5 1)
      ∧ ((watching .active 1).pool 5).depth = 2)
    ∧ (Takes (ask pool5 1 (entry Code.watch 5 4)) 1 Code.watch (entry Code.watch 5 4)
      ∧ (pool5.pool 5).count = 4 ∧ (pool5.pool 5).depth = 4) := by
  refine ⟨⟨takesOf ?_, ?_⟩, ⟨takesOf ?_, ?_⟩, ⟨takesOf ?_, ?_⟩, ⟨takesOf ?_, ?_⟩, ⟨takesOf ?_, ?_⟩,
    ⟨takesOf ?_, ?_⟩, ⟨takesOf ?_, ?_⟩, takesOf ?_, ?_⟩ <;> decide +kernel

theorem test_meets_UnwatchDisarms :
    (let e := entry Code.unwatch 5;
      let s := ask (membered ready 1 .reset) 1 e;
      s.offered 1 = some e ∧ e.code = Code.unwatch ∧ (s.member 1).membership = .offline)
    ∧ (let e := entry Code.unwatch 16;
      Takes (ask ready 1 e) 1 Code.unwatch e ∧ 16 ≤ e.arg0.toNat)
    ∧ (let e := entry Code.unwatch 15;
      Takes (ask ready 1 e) 1 Code.unwatch e ∧ e.arg0.toNat = (15 : PoolId).val) :=
  ⟨by decide, ⟨takesOf rfl, by decide⟩, takesOf rfl, rfl⟩

theorem test_meets_CloseDrainsOrTearsDown :
    (let e := entry Code.close 16;
      Takes (ask leased 0 e) 0 Code.close e ∧ 16 ≤ e.arg0.toNat)
    ∧ (let e := entry Code.close 5;
      (Takes (ask leased 0 e) 0 Code.close e ∧ HoldsLease (ask leased 0 e) 0
        ∧ e.arg0.toNat = (5 : PoolId).val ∧ ((ask leased 0 e).pool 5).state = .unconfigured)
      ∧ (Takes (ask (closing .draining []) 0 e) 0 Code.close e
        ∧ ((ask (closing .draining []) 0 e).pool 5).state = .draining)
      ∧ (let s := ask pool5 0 e;
        Takes s 0 Code.close e ∧ HoldsLease s 0 ∧ (s.pool 5).state = .active
        ∧ (s.pool 5).depth + (s.pool 5).retired = (s.pool 5).count)
      ∧ (let s := ask (closing .active [0x040, 0x042]) 0 e;
        Takes s 0 Code.close e ∧ HoldsLease s 0 ∧ (s.pool 5).state = .active
        ∧ (s.pool 5).depth + (s.pool 5).retired ≠ (s.pool 5).count)) :=
  ⟨⟨takesOf rfl, by decide⟩, ⟨takesOf rfl, holdsOf rfl, rfl, rfl⟩, ⟨takesOf rfl, rfl⟩,
    ⟨takesOf rfl, holdsOf rfl, rfl, rfl⟩, takesOf rfl, holdsOf rfl, rfl, by decide⟩

theorem test_meets_RecountStarts :
    (let e := entry Code.recount 16;
      Takes (ask leased 0 e) 0 Code.recount e ∧ 16 ≤ e.arg0.toNat)
    ∧ (let e := entry Code.recount 5;
      (Takes (ask pool5 1 e) 1 Code.recount e ∧ e.arg0.toNat = (5 : PoolId).val
        ∧ ¬ HoldsLease (ask pool5 1 e) 1)
      ∧ (Takes (ask leased 0 e) 0 Code.recount e ∧ HoldsLease (ask leased 0 e) 0
        ∧ ((ask leased 0 e).pool 5).state = .unconfigured)
      ∧ (let s := ask { recounting with lease := .held 1 1 } 1 (entry Code.recount 8);
        Takes s 1 Code.recount (entry Code.recount 8) ∧ HoldsLease s 1 ∧ (s.pool 8).state ≠ .unconfigured
        ∧ (s.pool 8).recount.isSome = true)
      ∧ Takes (ask pool5 0 e) 0 Code.recount e ∧ HoldsLease (ask pool5 0 e) 0
      ∧ ((ask pool5 0 e).pool 5).state ≠ .unconfigured ∧ ((ask pool5 0 e).pool 5).recount = none) :=
  ⟨⟨takesOf rfl, by decide⟩, ⟨takesOf rfl, rfl, holdsNot rfl⟩, ⟨takesOf rfl, holdsOf rfl, rfl⟩,
    ⟨takesOf rfl, holdsOf rfl, by decide, rfl⟩, takesOf rfl, holdsOf rfl, by decide, rfl⟩

/-- Handle 4095, alone in its pool. -/
def last (r : HandleRec) : State :=
  recorded (pooled leased 0 (active 4095 1 [4095] #v[0, 0, 0, 0])) [(4095, r)]

theorem test_meets_RetireWithdrawsAFreeHandle :
    let e := entry Code.retire 4095;
    let s := ask (last (.blank (.free 0) 0)) 0 e;
    Takes s 0 Code.retire e ∧ HoldsLease s 0 ∧ e.arg0.toNat = 4095 ∧ 4095 < 4096
    ∧ (s.record 4095).verifies = true ∧ (s.record 4095).state = .free 0 ∧ 4095 ∈ (s.pool 0).stack :=
  ⟨takesOf rfl, holdsOf rfl, rfl, by decide, rfl, rfl, by decide⟩

theorem test_meets_RetireWithdrawsAHandleInUse :
    let e := entry Code.retire 0x102;
    let s := ask pool9 0 e;
    Takes s 0 Code.retire e ∧ HoldsLease s 0 ∧ e.arg0.toNat = 0x102 ∧ 0x102 < 4096
    ∧ (s.record 0x102).verifies = true ∧ (s.record 0x102).state = .inUse 9 :=
  ⟨takesOf rfl, holdsOf rfl, rfl, by decide, rfl, rfl⟩

theorem test_meets_RestoreBringsBack : let e := entry Code.restore 4095;
    ∀ reason, let s := ask (last (.blank (.retired 0 reason) 1)) 0 e;
      Takes s 0 Code.restore e ∧ HoldsLease s 0 ∧ e.arg0.toNat = 4095 ∧ 4095 < 4096
      ∧ (s.record 4095).verifies = true ∧ (s.record 4095).state = .retired 0 reason := by
  intro e reason
  cases reason <;> exact ⟨takesOf rfl, holdsOf rfl, rfl, by decide, rfl, rfl⟩

/-- Port 1 without the lease, each of the seven with its arguments at the end of their range. -/
theorem test_meets_LeaseCommandsNeedTheLease :
    (∀ e ∈ [entry Code.create 15 0 4096, entry Code.quota 15 3 4096, entry Code.close 15,
        entry Code.recount 15, entry Code.retire 4095, entry Code.restore 4095, entry Code.evict 3],
      (ask leased 1 e).offered 1 = some e ∧ ((ask leased 1 e).member 1).membership = .online
      ∧ (ask leased 1 e).holdsLease 1 = false)
    ∧ (15 < 16 ∧ 4096 ≠ 0 ∧ 4096 ≤ 4096 ∧ 0 + 4096 ≤ 4096 ∧ 3 < 4 ∧ 4095 < 4096) := by
  decide

/-- GRANT: a handle without references and a waiter; references left; no waiter; not IN_USE; damaged; INITIALIZING.
WATCH_FIRE: at the threshold and one below it. -/
theorem test_meets_InnerRowsActWhereTheirConditionStands :
    (let s := recorded pool4 [(0x302, used 4 5 0 0 0 0)];
      s.device = .ready ∧ (s.record 0x302).verifies = true ∧ (s.record 0x302).state = .inUse 4
      ∧ (s.record 0x302).refs = 0 ∧ (s.pool 4).waitList ≠ [])
    ∧ ((pool4.record 0x302).state = .inUse 4 ∧ (pool4.record 0x302).refs ≠ 0)
    ∧ (let s := recorded ready [(4095, used 4 5 0 0 0 0)];
      (s.record 4095).state = .inUse 4 ∧ (s.pool 4).waitList = [])
    ∧ (ready.record 0).state.isInUse = false
    ∧ ((recorded pool4 [(0x302, damaged (used 4 5 0 0 0 0))]).record 0x302).verifies = false
    ∧ State.reset.device ≠ .ready
    ∧ ((watched 4).pool 5).firesAt 2 ((watched 4).pool 5).depth = true
    ∧ ((watched 5).pool 5).firesAt 2 ((watched 5).pool 5).depth = false := by
  decide +kernel

/-- One state and entry for each refusal of the statement, in its order. -/
theorem test_meets_CommandsRefuseInTheirOrder :
    (Takes (ask ready 1 (entry Code.allocate 16)) 1 Code.allocate (entry Code.allocate 16)
      ∧ Takes (ask ready 1 (entry Code.allocate 15)) 1 Code.allocate (entry Code.allocate 15)
      ∧ Takes (ask (closing .draining []) 1 (entry Code.allocate 5)) 1 Code.allocate (entry Code.allocate 5)
      ∧ (let s := ask (pooled ready 5 { active 0x040 4 [] #v[0, 2, 0, 0] with quota := #v[4, 2, 4, 4] }) 1
          (entry Code.allocate 5);
        Takes s 1 Code.allocate (entry Code.allocate 5)
        ∧ (s.pool 5).quota[(1 : Port)] ≤ (s.pool 5).charge[(1 : Port)]))
    ∧ ((∀ e ∈ [entry Code.create 16 0 1, entry Code.create 0 0 0, entry Code.create 0 0 4097,
          entry Code.create 0 1 4096], (ask leased 0 e).offered 0 = some e
          ∧ (16 ≤ e.arg0.toNat ∨ e.arg2.toNat = 0 ∨ 4096 < e.arg2.toNat
            ∨ 4096 < e.arg1.toNat + e.arg2.toNat))
      ∧ (let e := entry Code.create 5 0 1;
        Takes (ask pool5 0 e) 0 Code.create e ∧ HoldsLease (ask pool5 0 e) 0
        ∧ ((ask pool5 0 e).pool 5).state ≠ .unconfigured)
      ∧ (let e := entry Code.create 6 0x03F 2;
        let s := ask pool5 0 e;
        Takes s 0 Code.create e ∧ HoldsLease s 0 ∧ (s.pool 6).state = .unconfigured
        ∧ ((s.record 0x03F).verifies = true ∧ (s.record 0x03F).state = .unassigned)
        ∧ (s.record 0x040).verifies = true ∧ (s.record 0x040).state ≠ .unassigned))
    ∧ ((∀ e ∈ [entry Code.retire 4096, entry Code.retire 4095, entry Code.restore 4096, entry Code.restore 4095],
          (ask leased 0 e).offered 0 = some e ∧ (ask leased 0 e).holdsLease 0 = true)
      ∧ (ready.record 4095).state = .unassigned
      ∧ ((last (.blank (.retired 0 .check) 1)).record 4095).state = .retired 0 .check)
    ∧ (∀ x ∈ [((entry Code.evict 4), ready.member 3), (entry Code.evict 0, ready.member 3),
          (entry Code.evict 3, .reset), (entry Code.evict 3, leaving 4080)],
        (ask (membered leased 3 x.2) 0 x.1).offered 0 = some x.1
        ∧ (ask (membered leased 3 x.2) 0 x.1).holdsLease 0 = true)
    ∧ ((∀ x ∈ [((4 : Word), queueOf 0, 0), (2, queueOf 0, 0), (0, .reset, 0), (0, queueOf 32, 0),
          (0, queueOf 31, 7)],
        let e := entry Code.send 0x50A3 x.1;
        let s := ask (membered (pool2 (used 2 5 0 0 1 0 x.2.2)) 0 x.2.1) 2 e;
        s.offered 2 = some e ∧ (s.record 0x0A3).hold 2 ≠ 0 ∧ s.validate e.arg0 = .valid 2))
    ∧ (Takes (ask ready 1 (entry Code.take)) 1 Code.take (entry Code.take)
      ∧ (let s := ask (membered (pool2 (used 2 5 7 0 2 0 1)) 0
          ⟨.online, false, ⟨[], [⟨0x50A3, 2, .sent⟩]⟩⟩) 0 (entry Code.take);
        Takes s 0 Code.take (entry Code.take)
        ∧ (s.member 0).inbound.chosen = some (⟨0x50A3, 2, .sent⟩, .normal)
        ∧ (s.record (tokenHandle 0x50A3)).verifies = true ∧ (s.record (tokenHandle 0x50A3)).hold 0 = 7)
      ∧ Takes (ask ready 1 (entry Code.refuse)) 1 Code.refuse (entry Code.refuse)
      ∧ (ready.member 1).inbound = ⟨[], []⟩) :=
  ⟨⟨takesOf rfl, takesOf rfl, takesOf rfl, takesOf rfl, by decide⟩,
    ⟨by decide, ⟨takesOf rfl, holdsOf rfl, by decide⟩, takesOf rfl, holdsOf rfl, rfl, ⟨rfl, rfl⟩, rfl,
      by decide⟩,
    ⟨by decide, rfl, rfl⟩, by decide +kernel, by decide +kernel, takesOf rfl, ⟨takesOf rfl, rfl, rfl, rfl⟩,
    takesOf rfl, rfl⟩

/-- No recount; a recount with the handle one below its pointer; and with the handle at its pointer. -/
theorem test_meets_ShadowChargeFollowsBelowThePointer : (pool4.pool 4).recount = none
    ∧ (recounting.pool 8).recount = some ⟨#v[1, 1, 1, 1], 0x720, some 1, false⟩
    ∧ 0x71F < 0x720 ∧ 0x720 ≤ 0x720 := by decide +kernel

theorem test_meets_LeaseIsGrantedOrRenewed :
    (let e := entry Code.lease 9;
      let s := ask (membered ready 1 .reset) 1 e;
      s.offered 1 = some e ∧ e.code = Code.lease ∧ (s.member 1).membership = .offline)
    ∧ (Takes (ask ready 1 (entry Code.lease 0)) 1 Code.lease (entry Code.lease 0)
      ∧ Takes (ask ready 1 (entry Code.lease 256)) 1 Code.lease (entry Code.lease 256)
      ∧ 255 < (entry Code.lease 256).arg0.toNat)
    ∧ (let e := entry Code.lease 255;
      (Takes (ask ready 1 e) 1 Code.lease e ∧ 1 ≤ e.arg0.toNat ∧ e.arg0.toNat ≤ 255
        ∧ (ask ready 1 e).lease = .vacant)
      ∧ (Takes (ask leased 0 e) 0 Code.lease e ∧ (ask leased 0 e).lease = .held 0 50)
      ∧ Takes (ask leased 1 (entry Code.lease 1)) 1 Code.lease (entry Code.lease 1)
      ∧ (ask leased 1 (entry Code.lease 1)).lease = .held 0 50 ∧ (0 : Port) ≠ 1) :=
  ⟨by decide, ⟨takesOf rfl, takesOf rfl, by decide⟩, ⟨takesOf rfl, by decide, by decide, rfl⟩,
    ⟨takesOf rfl, rfl⟩, takesOf rfl, rfl, by decide⟩

theorem test_meets_UnleaseGivesUpTheLease : let e := entry Code.unlease;
    (let s := ask (membered ready 1 .reset) 1 e;
      s.offered 1 = some e ∧ e.code = Code.unlease ∧ (s.member 1).membership = .offline)
    ∧ (Takes (ask leased 0 e) 0 Code.unlease e ∧ (ask leased 0 e).lease = .held 0 50)
    ∧ (Takes (ask ready 1 e) 1 Code.unlease e ∧ (ask ready 1 e).lease = .vacant)
    ∧ Takes (ask leased 1 e) 1 Code.unlease e ∧ (ask leased 1 e).lease = .held 0 50 ∧ (0 : Port) ≠ 1 :=
  ⟨by decide, ⟨takesOf rfl, rfl⟩, ⟨takesOf rfl, rfl⟩, takesOf rfl, rfl, by decide⟩

theorem test_meets_TickCountsTheLeaseDown : State.reset.rstAsserted = true
    ∧ (leased.rstAsserted = false ∧ leased.divider = 0 ∧ leased.lease = .held 0 50 ∧ 2 ≤ 50)
    ∧ ready.lease = .vacant ∧ ({ ready with lease := .held 3 2 } : State).lease = .held 3 2
    ∧ ({ ready with lease := .held 3 1 } : State).lease = .held 3 1
    ∧ exec .millisecondTick ready = .next (after .millisecondTick ready) :=
  ⟨rfl, ⟨rfl, rfl, rfl, by decide⟩, rfl, rfl, rfl, rfl⟩

/-- A queue of 3; INITIALIZING; RECLAIMING; a queue of 4. -/
theorem test_meets_CommandPostQueuesOrOverruns :
    (let s := ready.updWindow 2 fun w => { w with queue := List.replicate 3 (entry Code.take) };
      s.rstAsserted = false ∧ (s.window 2).resetAsserted = false ∧ s.device = .ready
      ∧ (∀ n, (s.member 2).membership ≠ .reclaiming n) ∧ (s.window 2).queue.length < 4)
    ∧ (let s := { State.reset with rstAsserted := false };
      s.rstAsserted = false ∧ (s.window 2).resetAsserted = false ∧ s.device ≠ .ready)
    ∧ ((membered ready 2 (leaving 0)).member 2).membership = .reclaiming 0
    ∧ 4 ≤ ((ready.updWindow 2 fun w => { w with queue := List.replicate 4 (entry Code.take) }).window
        2).queue.length :=
  ⟨⟨rfl, rfl, rfl, notReclaiming rfl, by decide⟩, ⟨rfl, rfl, by decide⟩, rfl, by decide⟩

/-- For WindowWritesAct, WatchsetReadEmptiesTheSet and WindowReadsReport, with a FIFO of none and of one. -/
theorem test_meets_WindowAccesses : ready.rstAsserted = false ∧ (∀ p, (ready.window p).resetAsserted = false)
    ∧ (ready.window 0).results = []
    ∧ ((ready.updWindow 0 fun w => { w with results := [⟨Code.take, 0, .empty, {}⟩] }).window 0).results
      = ⟨Code.take, 0, .empty, {}⟩ :: [] := by
  decide

theorem test_meets_PortResetClearsTheWindow : State.reset.rstAsserted = true
    ∧ ((after (.portResetWindow 3) ready).window 3).resetAsserted = true := by decide

/-- The first and the last two writes; asserted RST_N; READY; and an event of a READY device. -/
theorem test_meets_InitializationWritesEveryRecord :
    (∀ n ∈ [0, 4094, 4095], let s := { State.reset with rstAsserted := false, device := .initializing n };
      s.device = .initializing n ∧ s.rstAsserted = false)
    ∧ (0 < 4095 ∧ 4094 < 4095 ∧ 4095 ≤ 4095) ∧ State.reset.rstAsserted = true ∧ ready.device = .ready
    ∧ exec (.respop 0 0) ready = .next (after (.respop 0 0) ready) ∧ Instr.respop 0 0 ≠ .deviceReset :=
  ⟨by decide, by decide, rfl, rfl, rfl, by decide⟩

/-- The last step that does not complete, the completing step, and a port with no sweep. -/
theorem test_meets_ReclaimStepSweepsSixteenHandles :
    (ready.device = .ready ∧ ((membered ready 1 (leaving 4064)).member 1).membership = .reclaiming 4064
      ∧ 4064 + 16 < 4096)
    ∧ (((membered ready 1 (leaving 4080)).member 1).membership = .reclaiming 4080 ∧ 4096 ≤ 4080 + 16)
    ∧ ∀ n, (ready.member 1).membership ≠ .reclaiming n :=
  ⟨by decide, by decide, notReclaiming rfl⟩

/-- Pool 8 with the pointer so that the slice stops before the end, and at it; a pool with no recount. -/
theorem test_meets_RecountStepCountsItsSlice :
    (let s := recounting.updPool 8 fun q => { q with recount := some ⟨#v[0, 0, 0, 0], 0x717, some 1, false⟩ };
      s.device = .ready ∧ (s.pool 8).recount = some ⟨#v[0, 0, 0, 0], 0x717, some 1, false⟩
      ∧ 0x728 = (s.pool 8).first + (s.pool 8).count ∧ 0x727 = min (0x717 + 16) 0x728 ∧ 0x727 ≠ 0x728)
    ∧ (recounting.device = .ready
      ∧ (recounting.pool 8).recount = some ⟨#v[1, 1, 1, 1], 0x720, some 1, false⟩
      ∧ 0x728 = (recounting.pool 8).first + (recounting.pool 8).count ∧ 0x728 = min (0x720 + 16) 0x728)
    ∧ (pool4.pool 4).recount = none := by
  decide +kernel

theorem test_meets_WordsKeepTheirFields : 4095 < 4096 := by decide

/-- A write enable ending where a read begins, one moment with no arrival, an access of each kind with a row, the
last location before WATCHSET, and an event. -/
theorem test_meets_BusAccessesArriveAndReadsAreHeld :
    let write : BusPins := ⟨true, false, true, 3, 7⟩
    let read : BusPins := ⟨true, true, false, 3, 0⟩
    let s := ready.updBus 1 fun b => { b with before := write }
    (s.bus 1).readBegins read = true ∧ (s.bus 1).writeEnds read = true
    ∧ (s.bus 1).readBegins write = false ∧ (s.bus 1).arrivals write = []
    ∧ (s.busMoment 1 read).drivenWord 1 = some 7 ∧ (0 : Port) ≠ 1
    ∧ (BusAccess.read 13).command 1 = some (.watchsetRead 1)
    ∧ (BusAccess.write 15 7).command 1 = some (.registerWrite 1 15 7) ∧ (12 : BitVec 4) ≠ 0xD
    ∧ exec (.respop 0 0) ready = .next (after (.respop 0 0) ready) ∧ Instr.respop 0 0 ≠ .watchsetRead 0 :=
  ⟨by decide, by decide, by decide, by decide, by decide, by decide, by decide, by decide, by decide, rfl,
    by decide⟩

/-! A state with a pool in use, waiters and a waiting event meets every invariant. -/

/-- Pool 4 of 3.8 with the RELEASE of step 5 about to be taken. -/
def live : State := { ask pool4 3 (entry Code.release 0x5302) with pending := [.release 3] }

theorem live_record {h : Nat} (h0 : h ≠ 0x300) (h1 : h ≠ 0x301) (h2 : h ≠ 0x302) :
    live.record h = .initial := by
  show Table.get h [(0x300, used 4 2 1 0 0 0), (0x301, used 4 0 0 1 0 0), (0x302, used 4 5 0 0 0 1)] = _
  simp [Table.get, Ne.symm h0, Ne.symm h1, Ne.symm h2]

theorem live_other : ∀ k : PoolId, k ≠ 4 → live.pool k = .unconfigured := by decide

theorem live_covers {k : PoolId} {h : Nat} (hc : (live.pool k).covers h = true) : k = 4 := by
  by_contra hk
  rw [live_other k hk] at hc
  simp [PoolRec.covers, PoolRec.unconfigured] at hc

theorem live_poolOf {h : Nat} (h0 : h ≠ 0x300) (h1 : h ≠ 0x301) (h2 : h ≠ 0x302) :
    live.poolOf h = none := by
  unfold State.poolOf
  rw [List.find?_eq_none]
  intro k _ hc
  obtain rfl := live_covers hc
  have e : (live.pool 4).covers h = (true && decide (0x300 ≤ h) && decide (h < 0x300 + 3)) := rfl
  rw [e] at hc
  simp only [Bool.true_and, Bool.and_eq_true, decide_eq_true_eq] at hc
  omega

theorem live_deliveries (h : HandleNo) : live.deliveriesOf h = 0 := rfl

theorem live_stack : ∀ k : PoolId, (live.pool k).stack = [] := by decide

theorem live_members : ∀ p : Port, live.member p = ⟨.online, false, ⟨[], []⟩⟩ := by decide

theorem live_recordSound (h : Nat) : RecordSound live h := by
  by_cases h0 : h = 0x300
  · subst h0; unfold RecordSound; intro r hr
    exact ⟨by decide +kernel, by decide +kernel, by decide +kernel, by decide +kernel, by decide +kernel,
      by decide +kernel, by decide +kernel, by decide +kernel⟩
  by_cases h1 : h = 0x301
  · subst h1; unfold RecordSound; intro r hr
    exact ⟨by decide +kernel, by decide +kernel, by decide +kernel, by decide +kernel, by decide +kernel,
      by decide +kernel, by decide +kernel, by decide +kernel⟩
  by_cases h2 : h = 0x302
  · subst h2; unfold RecordSound; intro r hr
    exact ⟨by decide +kernel, by decide +kernel, by decide +kernel, by decide +kernel, by decide +kernel,
      by decide +kernel, by decide +kernel, by decide +kernel⟩
  unfold RecordSound
  rw [live_record h0 h1 h2, live_poolOf h0 h1 h2, live_deliveries]
  intro r hr
  refine ⟨rfl, fun k => ?_, ?_, fun _ => ⟨rfl, rfl, rfl⟩, by decide +kernel, by decide,
    rfl, fun p d hd => ?_⟩
  · rw [live_stack]
    constructor
    · intro hc; cases hc
    · intro hc; cases hc
  · intro hc; cases hc
  · rw [live_members] at hd; cases hd

theorem live_structure : StructureInv live := by
  refine ⟨⟨by decide +kernel, fun k hk => ?_, fun j k h hj hk => ?_⟩, live_recordSound, fun h hd => ?_⟩
  · have e : k = 4 := by
      by_contra hc
      rw [live_other k hc] at hk; exact hk rfl
    subst e
    decide +kernel
  · rw [live_covers hj, live_covers hk]
  · rw [live_deliveries] at hd; cases hd

theorem live_charge : ChargeInv live := by
  intro _ k hk
  have e : k = 4 := by
    by_contra hc
    rw [live_other k hc] at hk; exact hk rfl
  subst e
  exact ⟨fun _ _ => by decide +kernel, fun rc hrc => by cases hrc⟩

theorem live_membership : MembershipInv live := by
  intro p hp
  rw [live_members] at hp; exact absurd rfl hp

theorem live_swept : SweptInv live := by
  intro _ p h _ hm
  rw [live_members] at hm
  rcases hm with hm | ⟨n, hm, _⟩ <;> cases hm

/-- For the six statements that an invariant is kept. -/
theorem test_meets_invariantsAreKept : TableInv live ∧ CapacityInv live ∧ MembershipInv live
    ∧ StructureInv live ∧ ChargeInv live ∧ SweptInv live ∧ ∃ t, step live = .next t :=
  ⟨rfl, ⟨by decide +kernel, by decide +kernel, by decide⟩, live_membership, live_structure, live_charge,
    live_swept, _, rfl⟩

end Sys2Proof.Tests
end

section
/-! PROOFS. Pools and free stacks: RETIRE of a FREE handle (R43) and UNWATCH (R34). -/

namespace Sys2Proof.Machine

/-! ### Tokens and generations (R4, R6) -/

@[simp] theorem tokenGen_mkToken (g : BitVec 4) (h : HandleNo) : tokenGen (mkToken g h) = g :=
  BitVec.extractLsb'_append_eq_left

theorem tokenHandle_mkToken (g : BitVec 4) {h : HandleNo} (l : h < 4096) :
    tokenHandle (mkToken g h) = h := by
  rw [tokenHandle, mkToken, BitVec.extractLsb'_append_eq_right, BitVec.toNat_ofNat]
  exact Nat.mod_eq_of_lt l

/-- A token of a RETIRED handle is STALE unless its generation is the one the handle had last (R6 step 3). -/
theorem validate_stale_of_retired {s : State} {t : Word} {h : HandleNo} {k : PoolId} {reason : RetireReason}
    (ht : tokenHandle t = h) (hv : (s.record h).verifies = true)
    (hr : (s.record h).state = .retired k reason) (hg : tokenGen t ≠ (s.record h).gen - 1) :
    s.validate t = .stale := by
  subst ht
  simp only [State.validate, hv, hr, hg, Bool.not_true, Bool.false_eq_true, if_false]

/-- Generations count modulo 16, so the one before g and the one after g differ by 2 and not by 1. -/
theorem gen_pred_ne_pred_succ (g : BitVec 4) : g - 1 ≠ g + 1 - 1 := by
  bv_omega

/-! ### RETIRE of a FREE handle (R42, R43) -/

/-- Past the three checks of R42 a handle command runs its body on the handle and its record. -/
theorem withHandle_reads {s : State} {p : Port} {e : Entry} {h : HandleNo} (ha : e.arg0.toNat = h)
    (hl : h < 4096) (lease : HoldsLease s p) (hv : (s.record h).verifies = true)
    (body : HandleNo → HandleRec → State) : s.withHandle p e body = body h (s.record h) := by
  simp [State.withHandle, handleArg_of ha hl, holdsLease_of lease, hv]

theorem exec_retire_free {s : State} {p : Port} {e : Entry} {h : HandleNo} {k : PoolId}
    (tk : Takes s p Code.retire e) (lease : HoldsLease s p) (ha : e.arg0.toNat = h) (hl : h < 4096)
    (hv : (s.record h).verifies = true) (hf : (s.record h).state = .free k) :
    exec (.retire p) s = .next (retireFree p e (s.taken p) h k) := by
  have lease' : HoldsLease (s.taken p) p := lease
  have hv' : ((s.taken p).record h).verifies = true := hv
  have hf' : ((s.taken p).record h).state = .free k := hf
  rw [exec_retire tk, retireBody, withHandle_reads ha hl lease' hv', hf']

/-- One pool record is changed and one handle record is written, and nothing else. -/
theorem updPool_writeRecord_meets {s : State} (hd : s.device = .ready) (k : PoolId) (f : PoolRec → PoolRec)
    (h : HandleNo) {r : HandleRec} (hr : r.verifies = true) :
    Becomes s ((s.updPool k f).writeRecord h r) (record := changeAt s.record h r)
      (pool := changeAt s.pool k (f (s.pool k))) :=
  ⟨SameDevice.refl s, (writeRecord_meets (s := s.updPool k f) hd h hr).record, (updPool_meets s k f).pool,
    fun _ => rfl, fun _ => rfl, rfl, rfl, rfl⟩

/-- The effect and the answer of a RETIRE of a FREE handle (R43). -/
theorem retireFree_meets {s : State} (hd : s.device = .ready) (p : Port) (e : Entry) (h : HandleNo)
    (k : PoolId) : Becomes s (retireFree p e (s.taken p) h k)
      (record := changeAt s.record h (.blank (.retired k .admin) ((s.record h).gen + 1)))
      (pool := changeAt s.pool k
        { s.pool k with stack := (s.pool k).stack.erase h, retired := (s.pool k).retired + 1 })
      (window := changeAt s.window p ((s.window p).dequeued.posted e .ok { res1 := 1, res2 := 0 }))
      (lastGranted := p) :=
  becomes_answered (updPool_writeRecord_meets (s := s.taken p) hd k
    (fun q => { q with stack := q.stack.erase h, retired := q.retired + 1 }) h rfl) e .ok _

/-- A handle that leaves the free stack for the retired count keeps depth plus retired (R43). -/
theorem depth_add_retired_of_withdrawn (q : PoolRec) {h : HandleNo} (hm : h ∈ q.stack) :
    let q' := { q with stack := q.stack.erase h, retired := q.retired + 1 }
    q'.depth + q'.retired = q.depth + q.retired := by
  have hpos : 0 < q.stack.length := List.length_pos_of_mem hm
  simp only [PoolRec.depth, List.length_erase_of_mem hm]
  omega

/-- Settles O33: the body of RETIRE comes down to the step of R43, and the token of the last use, two generations
behind the record that step writes, is STALE. -/
theorem retireWithdrawsAFreeHandle : Obligations.RetireWithdrawsAFreeHandle := by
  intro s p e h k tk lease ha hl hv hf
  have b := retireFree_meets tk.ready p e h k
  refine ⟨_, exec_retire_free tk lease ha hl hv hf, b, fun hm => ?_, ?_⟩
  · rw [b.pool, changeAt_self]
    exact depth_add_retired_of_withdrawn _ hm
  · have hrec := b.record h
    rw [changeAt_self] at hrec
    refine validate_stale_of_retired (k := k) (reason := .admin) (tokenHandle_mkToken _ hl) ?_ ?_ ?_
    · rw [hrec]; rfl
    · rw [hrec]; rfl
    · rw [hrec, tokenGen_mkToken]
      exact gen_pred_ne_pred_succ _

/-! ### UNWATCH (R34) -/

theorem exec_unwatch_offline {s : State} {p : Port} {e : Entry} (ho : s.offered p = some e)
    (hc : e.code = Code.unwatch) (hm : (s.member p).membership = .offline) :
    exec (.unwatch p) s = .next ((s.taken p).answer p e .notJoined) := by
  simp only [exec, execUnwatch]
  rw [takeCommand_offline ho (by simp [hc]) hm]

theorem unwatchBody_badArg (s : State) (p : Port) {e : Entry} (ha : 16 ≤ e.arg0.toNat) :
    unwatchBody p e s = s.answer p e .badArg := by
  simp [unwatchBody, poolArg_none ha]

theorem unwatchBody_pool (s : State) (p : Port) {e : Entry} {k : PoolId} (ha : e.arg0.toNat = k.val) :
    unwatchBody p e s
      = (s.updPool k fun q => { q with watches := q.watches.set p.val none p.isLt }).answer p e .ok
          { res1 := bit (s.pool k).watches[p].isSome } := by
  simp only [unwatchBody, poolArg_of ha]
  rfl

/-- Settles O30, by the three outcomes of R34: the port is OFFLINE, the pool number is above 15, or the watch is
disarmed. -/
theorem unwatchDisarms : Obligations.UnwatchDisarms := by
  refine fun s p e => ⟨fun ho hc hm => ?offline, fun tk => ⟨fun ha => ?badArg, fun k ha => ?disarmed⟩⟩
  case offline => exact answersOnly_of_taken (exec_unwatch_offline ho hc hm)
  case badArg =>
    refine answersOnly_of_taken ?_
    rw [exec_unwatch tk, unwatchBody_badArg _ _ ha]
  case disarmed =>
    refine ⟨_, exec_unwatch tk, ?_⟩
    rw [unwatchBody_pool _ _ ha]
    exact becomes_answered (updPool_meets (s.taken p) k _) e .ok _

end Sys2Proof.Machine
end

section
/-! PROOFS. Allocation, holding and release: CANCEL (R55). -/

namespace Sys2Proof.Machine

/-! ### The wait-list entry of a port (R50) -/

/-- The entry that stands for a port in the wait lists names that port. -/
theorem waitEntryOf_port {s : State} {p : Port} {k : PoolId} {w : WaitEntry}
    (h : s.waitEntryOf p = some (k, w)) : w.port = p := by
  obtain ⟨j, -, hj⟩ := List.exists_of_findSome?_eq_some h
  obtain ⟨v, hv, heq⟩ := Option.map_eq_some_iff.1 hj
  cases heq
  simpa using List.find?_some hv

/-! ### One change of a window after another -/

/-- An event whose last act changes one window, which its earlier acts had already changed. -/
theorem Becomes.thenWindow {s u t : State} {re : HandleNo → HandleRec} {po : PoolId → PoolRec}
    {me : Port → Member} {le : Lease} {fc : Nat} {lg p : Port} {v : Window} {f : Window → Window}
    (b : Becomes s u re po me (changeAt s.window p v) le fc lg)
    (c : Becomes u t (window := changeAt u.window p (f (u.window p)))) :
    Becomes s t re po me (changeAt s.window p (f v)) le fc lg := by
  refine ⟨b.same.trans c.same, fun h => (c.record h).trans (b.record h), fun k => (c.pool k).trans (b.pool k),
    fun q => (c.member q).trans (b.member q), fun q => ?_, c.lease.trans b.lease,
    c.faultCount.trans b.faultCount, c.lastGranted.trans b.lastGranted⟩
  rw [c.window]
  by_cases hq : q = p
  · subst hq
    rw [changeAt_self, changeAt_self, b.window, changeAt_self]
  · rw [changeAt_ne _ hq, changeAt_ne _ hq, b.window, changeAt_ne _ hq]

/-- A deferred result fills the reserved slot of the waiting port, and nothing else changes (R52). -/
theorem postDeferred_meets (s : State) (w : WaitEntry) (st : Status) (d : Data) :
    Becomes s (s.postDeferred w st d)
      (window := changeAt s.window w.port ((s.window w.port).deferred w st d)) := by
  refine ⟨SameDevice.refl s, fun _ => rfl, fun _ => rfl, fun _ => rfl, fun q => ?_, rfl, rfl, rfl⟩
  by_cases hq : q = w.port
  · rw [hq, postDeferred_window_self, changeAt_self]
  · rw [postDeferred_window_ne _ _ _ _ hq, changeAt_ne _ hq]

/-- A command is taken and changes one pool record, and nothing else. -/
theorem taken_updPool_meets (s : State) (p : Port) (k : PoolId) (f : PoolRec → PoolRec) :
    Becomes s ((s.taken p).updPool k f) (pool := changeAt s.pool k (f (s.pool k)))
      (window := changeAt s.window p (s.window p).dequeued) (lastGranted := p) :=
  ⟨SameDevice.refl s, fun _ => rfl, (updPool_meets (s.taken p) k f).pool, fun _ => rfl,
    (taken_meets s p).window, rfl, rfl, rfl⟩

/-! ### CANCEL (R55) -/

theorem exec_cancel_offline {s : State} {p : Port} {e : Entry} (ho : s.offered p = some e)
    (hc : e.code = Code.cancel) (hm : (s.member p).membership = .offline) :
    exec (.cancel p) s = .next ((s.taken p).answer p e .notJoined) := by
  simp only [exec, execCancel]
  rw [takeCommand_offline ho (by simp [hc]) hm]

theorem cancelBody_none {s : State} {p : Port} (e : Entry) (hw : s.waitEntryOf p = none) :
    cancelBody p e s = s.answer p e .nothingWaiting := by
  simp only [cancelBody, hw]

theorem cancelBody_some {s : State} {p : Port} {k : PoolId} {w : WaitEntry} (e : Entry)
    (hw : s.waitEntryOf p = some (k, w)) :
    cancelBody p e s
      = ((s.updPool k fun q => { q with waitList := q.waitList.filter fun v => decide (v.port ≠ p) }).postDeferred
          w .cancelled).answer p e .ok { res1 := word k.val, res2 := w.tag.setWidth 16 } := by
  simp only [cancelBody, hw]

/-- The three acts of R55 on a waiting port, in their order: the entry leaves the wait list, the CANCELLED result
fills the reserved slot, and the CANCEL is answered behind it. -/
theorem cancelBody_meets {s : State} {p : Port} {k : PoolId} {w : WaitEntry} (e : Entry)
    (hw : s.waitEntryOf p = some (k, w)) :
    Becomes s (cancelBody p e (s.taken p))
      (pool := changeAt s.pool k
        { s.pool k with waitList := (s.pool k).waitList.filter fun v => decide (v.port ≠ p) })
      (window := changeAt s.window p (((s.window p).dequeued.deferred w .cancelled {}).posted e .ok
        { res1 := word k.val, res2 := w.tag.setWidth 16 }))
      (lastGranted := p) := by
  obtain rfl := waitEntryOf_port hw
  rw [cancelBody_some e ((taken_waitEntryOf s w.port w.port).trans hw)]
  have removed := taken_updPool_meets s w.port k fun q =>
    { q with waitList := q.waitList.filter fun v => decide (v.port ≠ w.port) }
  have cancelled := removed.thenWindow (f := (·.deferred w .cancelled {})) (postDeferred_meets _ w .cancelled {})
  exact cancelled.thenWindow (f := (·.posted e .ok _)) (answer_meets _ w.port e .ok _)

/-- Settles O15, by the three outcomes of R55: the port is OFFLINE, it has no entry in a wait list, or its entry
is cancelled. -/
theorem cancelEndsTheWait : Obligations.CancelEndsTheWait := by
  refine ⟨fun s p e ho hc hm => ?offline, fun s p e tk => ⟨fun hw => ?nothingWaiting, fun k w hw => ?cancelled⟩⟩
  case offline => exact answersOnly_of_taken (exec_cancel_offline ho hc hm)
  case nothingWaiting =>
    refine answersOnly_of_taken ?_
    rw [exec_cancel tk, cancelBody_none e ((taken_waitEntryOf s p p).trans hw)]
  case cancelled => exact ⟨_, exec_cancel tk, cancelBody_meets e hw⟩

end Sys2Proof.Machine
end

section
/-! PROOFS. Client ports: the acceptance of a CMD write (R96, R97). -/

namespace Sys2Proof.Machine

/-! ### Acceptance (R96) -/

theorem isReclaiming_eq_false_iff (m : Membership) : m.isReclaiming = false ↔ ∀ n, m ≠ .reclaiming n := by
  cases m <;> simp [Membership.isReclaiming]

/-- The three conditions under which a port interface accepts a CMD write (R96). -/
def State.AcceptsCmd (s : State) (p : Port) : Prop :=
  s.device = .ready ∧ (∀ n, (s.member p).membership ≠ .reclaiming n) ∧ (s.window p).queue.length < 4

/-- The three refusals of R97 are the ways in which acceptance fails. -/
theorem not_acceptsCmd_iff (s : State) (p : Port) : ¬ s.AcceptsCmd p ↔
    s.device ≠ .ready ∨ (∃ n, (s.member p).membership = .reclaiming n) ∨ 4 ≤ (s.window p).queue.length := by
  simp only [State.AcceptsCmd, not_and_or, not_forall, not_not, not_lt, ne_eq]

/-- The model's test of a CMD write is acceptance. -/
theorem writeCmd_test_iff (s : State) (p : Port) :
    (s.device = .ready ∧ (!(s.member p).membership.isReclaiming) = true ∧ (s.window p).queue.length < 4)
      ↔ s.AcceptsCmd p := by
  rw [State.AcceptsCmd, Bool.not_eq_true', isReclaiming_eq_false_iff]

/-! ### What a CMD write does (R96, R97) -/

/-- A window after a word written to CMD has joined the tail of its queue (R96). -/
def Window.queued (w : Window) (v : Word) : Window :=
  { w with queue := w.queue ++ [commandEntry v w.arg0 w.arg1 w.arg2] }

theorem writeCmd_accepted {s : State} {p : Port} (h : s.AcceptsCmd p) (v : Word) :
    s.writeCmd p v = s.updWindow p (·.queued v) :=
  if_pos ((writeCmd_test_iff s p).2 h)

theorem writeCmd_refused {s : State} {p : Port} (h : ¬ s.AcceptsCmd p) (v : Word) :
    s.writeCmd p v = s.raise p .overrun :=
  if_neg (mt (writeCmd_test_iff s p).1 h)

theorem exec_commandPost {s : State} {p : Port} (hd : s.rstAsserted = false)
    (hp : (s.window p).resetAsserted = false) (v : Word) :
    exec (.commandPost p v) s = .next (s.writeCmd p v) := by
  have listens : s.ignoresWindow p = false := by rw [State.ignoresWindow, hd, hp, Bool.or_self]
  simp only [exec, execCommandPost, listens, Bool.false_eq_true, if_false]

/-- Settles O43, by whether the three conditions of R96 hold at the write. -/
theorem commandPostQueuesOrOverruns : Obligations.CommandPostQueuesOrOverruns := by
  refine fun s p v hd hp => ⟨fun ready member room => ?queued, fun refusal => ?overrun⟩
  case queued =>
    have accepted : s.AcceptsCmd p := ⟨ready, member, room⟩
    refine ⟨_, exec_commandPost hd hp v, ?_⟩
    rw [writeCmd_accepted accepted]
    exact updWindow_meets s p (·.queued v)
  case overrun =>
    have refused : ¬ s.AcceptsCmd p := (not_acceptsCmd_iff s p).2 refusal
    refine ⟨_, exec_commandPost hd hp v, ?_⟩
    rw [writeCmd_refused refused]
    exact raise_meets s p .overrun

end Sys2Proof.Machine
end

section
/-! PROOFS. Port membership: JOIN (R118) and SURVEY (R134). -/

namespace Sys2Proof.Machine

/-! ### JOIN (R118) -/

theorem flagWord_eq_bit (b : Bool) : flagWord b = bit b := rfl

/-- JOIN passes the membership check from any state, so its body runs wherever the arbiter offers it (R101). -/
theorem exec_join_offered {s : State} {p : Port} {e : Entry} (ho : s.offered p = some e)
    (hc : e.code = Code.join) : exec (.join p) s = .next (joinBody p e (s.taken p)) := by
  simp only [exec, execJoin]
  rw [takeAny_some ho, if_pos (beq_iff_eq.2 hc)]

theorem joinBody_offline {s : State} {p : Port} (e : Entry) (hm : (s.member p).membership = .offline) :
    joinBody p e s = (s.updMember p fun m => { m with membership := .online, evicted := false }).answer p e .ok
      { res1 := word p.val, res2 := bit (s.member p).evicted } := by
  rw [joinBody, if_pos hm, flagWord_eq_bit]

theorem joinBody_online {s : State} {p : Port} (e : Entry) (hm : (s.member p).membership = .online) :
    joinBody p e s = s.answer p e .alreadyJoined := by
  simp [joinBody, hm]

/-- Settles O6, by the three states of the port: OFFLINE, ONLINE, and RECLAIMING, from which no command is taken. -/
theorem joinMakesThePortOnline : Obligations.JoinMakesThePortOnline := by
  refine ⟨fun s p e ho hc hm => ?offline, fun s p e tk => ?online,
    fun s p n hm => notOffered_of_reclaiming hm⟩
  case offline =>
    refine ⟨_, exec_join_offered ho hc, ?_⟩
    rw [joinBody_offline (s := s.taken p) e hm]
    exact becomes_answered (updMember_meets (s.taken p) p _) e .ok _
  case online =>
    obtain ⟨ho, hc, hm⟩ := tk
    refine answersOnly_of_taken ?_
    rw [exec_join_offered ho hc, joinBody_online (s := s.taken p) e hm]

/-! ### The packed words of SURVEY (Table 10-11) -/

/-- Below bit 8 the ports word is the four membership codes. -/
theorem portsWord_low (s : State) {start len : Nat} (h : start + len ≤ 8) :
    s.portsWord.extractLsb' start len
      = ((s.member 3).membership.code ++ ((s.member 2).membership.code
          ++ ((s.member 1).membership.code ++ (s.member 0).membership.code))).extractLsb' start len := by
  rw [State.portsWord]
  iterate 5 rw [BitVec.extractLsb'_append_eq_of_add_le (by omega)]

theorem portsWord_membership (s : State) (q : Port) :
    s.portsWord.extractLsb' (2 * q.val) 2 = (s.member q).membership.code := by
  rw [portsWord_low s (by omega)]
  match q with
  | 0 => iterate 3 rw [BitVec.extractLsb'_append_eq_of_add_le (by decide)]
         exact BitVec.extractLsb'_eq_self
  | 1 => iterate 2 rw [BitVec.extractLsb'_append_eq_of_add_le (by decide)]
         exact BitVec.extractLsb'_append_eq_left
  | 2 => rw [BitVec.extractLsb'_append_eq_of_add_le (by decide)]
         exact BitVec.extractLsb'_append_eq_left
  | 3 => exact BitVec.extractLsb'_append_eq_left

theorem portsWord_evicted (s : State) (q : Port) :
    s.portsWord.getLsbD (8 + q.val) = (s.member q).evicted := by
  simp only [State.portsWord, BitVec.getLsbD_append, BitVec.getLsbD_ofBool]
  fin_cases q <;> simp

theorem portsWord_reserved (s : State) : s.portsWord.extractLsb' 12 4 = 0#4 :=
  BitVec.extractLsb'_append_eq_left

theorem deviceLeaseWord_vacant {s : State} (hd : s.device = .ready) (hl : s.lease = .vacant) :
    s.deviceLeaseWord = 0x0001 := by
  rw [State.deviceLeaseWord, hd, hl]
  decide

theorem deviceLeaseWord_held {s : State} {q : Port} {r : Nat} (hd : s.device = .ready)
    (hl : s.lease = .held q r) : s.deviceLeaseWord = 0x0011 + 0x0100 * word q.val := by
  rw [State.deviceLeaseWord, hd, hl]
  simp only [Lease.holderWord, Lease.code, DeviceState.code]
  clear hl
  revert q
  decide

/-! ### SURVEY (R134) -/

/-- The four data words of a SURVEY answered OK. -/
def State.surveyData (s : State) : Data :=
  { res1 := s.portsWord, res2 := s.deviceLeaseWord
    res3 := s.lease.remainingWord, res4 := word s.faultCount }

/-- Taking the command changes nothing that SURVEY reports. -/
theorem surveyBody_taken (s : State) (p : Port) (e : Entry) :
    surveyBody p e (s.taken p) = (s.taken p).answer p e .ok s.surveyData := rfl

theorem exec_survey_offline {s : State} {p : Port} {e : Entry} (ho : s.offered p = some e)
    (hc : e.code = Code.survey) (hm : (s.member p).membership = .offline) :
    exec (.survey p) s = .next ((s.taken p).answer p e .notJoined) := by
  simp only [exec, execSurvey]
  rw [takeCommand_offline ho (by simp [hc]) hm]

theorem survey_answersOnly {s : State} {p : Port} {e : Entry} (tk : Takes s p Code.survey e) :
    AnswersOnly (.survey p) s p e .ok s.surveyData := by
  refine answersOnly_of_taken ?_
  rw [exec_survey tk, surveyBody_taken]

/-- Settles O12: from an ONLINE port SURVEY only answers, and its words are read field by field. -/
theorem surveyReports : Obligations.SurveyReports := by
  refine ⟨fun s p e ho hc hm => ?offline, fun s p e tk => ?online⟩
  case offline => exact answersOnly_of_taken (exec_survey_offline ho hc hm)
  case online =>
    refine ⟨s.surveyData, survey_answersOnly tk, fun q => ⟨?state, portsWord_evicted s q⟩,
      portsWord_reserved s, fun hl => ⟨deviceLeaseWord_vacant tk.ready hl, ?noTime⟩,
      fun q r hl => ⟨deviceLeaseWord_held tk.ready hl, ?time⟩, rfl⟩
    case state =>
      refine (portsWord_membership s q).trans ?_
      cases (s.member q).membership <;> rfl
    case noTime => simp only [State.surveyData, hl, Lease.remainingWord]
    case time => simp only [State.surveyData, hl, Lease.remainingWord]

end Sys2Proof.Machine
end

section
/-! PROOFS. The configuration lease: LEASE (R137) and UNLEASE (R138). -/

namespace Sys2Proof.Machine

/-! ### What the two commands share -/

/-- A command row other than JOIN answers NOT_JOINED from an OFFLINE port, whatever its body does (R101). -/
theorem answersOnly_notJoined {c : Instr} {s : State} {p : Port} {e : Entry} {code : BitVec 6}
    {body : Entry → State → State} (row : exec c s = .next (s.takeCommand p (· == code) body))
    (ho : s.offered p = some e) (hc : e.code = code) (hm : (s.member p).membership = .offline) :
    AnswersOnly c s p e .notJoined {} := by
  refine answersOnly_of_taken ?_
  rw [row, takeCommand_offline ho (by simp [hc]) hm]

/-- Writing the lease changes the lease alone. -/
theorem withLease_meets (s : State) (l : Lease) : Becomes s { s with lease := l } (lease := l) :=
  ⟨SameDevice.refl s, fun _ => rfl, fun _ => rfl, fun _ => rfl, fun _ => rfl, rfl, rfl, rfl⟩

/-- A command that, once taken, writes the lease and answers, and does nothing else. -/
theorem taken_withLease_answer_meets (s : State) (p : Port) (l : Lease) (e : Entry) (st : Status) (d : Data) :
    Becomes s (({ s.taken p with lease := l }).answer p e st d) (lease := l)
      (window := changeAt s.window p ((s.window p).dequeued.posted e st d)) (lastGranted := p) :=
  becomes_answered (withLease_meets (s.taken p) l) e st d

/-! ### LEASE (R137) -/

theorem leaseBody_badArg (s : State) (p : Port) {e : Entry} (hd : e.arg0.toNat = 0 ∨ 255 < e.arg0.toNat) :
    leaseBody p e s = s.answer p e .badArg :=
  if_pos hd

/-- The durations that R137 accepts are those the model's test does not refuse. -/
theorem duration_accepted {d : Nat} (h1 : 1 ≤ d) (h255 : d ≤ 255) : ¬ (d = 0 ∨ 255 < d) := by
  omega

theorem leaseBody_vacant {s : State} (p : Port) {e : Entry} (hd : ¬ (e.arg0.toNat = 0 ∨ 255 < e.arg0.toNat))
    (hl : s.lease = .vacant) :
    leaseBody p e s
      = ({ s with lease := .held p e.arg0.toNat }).answer p e .ok { res1 := 0, res2 := e.arg0 } := by
  simp only [leaseBody, if_neg hd, hl]

theorem leaseBody_holder {s : State} {p : Port} {e : Entry} {r : Nat}
    (hd : ¬ (e.arg0.toNat = 0 ∨ 255 < e.arg0.toNat)) (hl : s.lease = .held p r) :
    leaseBody p e s
      = ({ s with lease := .held p e.arg0.toNat }).answer p e .ok
          { res1 := 1, res2 := e.arg0, res3 := word r } := by
  simp only [leaseBody, if_neg hd, hl, if_true]

theorem leaseBody_busy {s : State} {p q : Port} {e : Entry} {r : Nat}
    (hd : ¬ (e.arg0.toNat = 0 ∨ 255 < e.arg0.toNat)) (hl : s.lease = .held q r) (hq : q ≠ p) :
    leaseBody p e s = s.answer p e .leaseBusy { res1 := word q.val, res2 := word r } := by
  simp only [leaseBody, if_neg hd, hl, if_neg hq]

/-- Settles O40, by the outcomes of R137: the port is OFFLINE, the duration is out of range, or the lease is VACANT,
the port's own, or another port's. -/
theorem leaseIsGrantedOrRenewed : Obligations.LeaseIsGrantedOrRenewed := by
  refine ⟨fun s p e ho hc hm => answersOnly_notJoined rfl ho hc hm, fun s p e tk =>
    ⟨fun hd => ?badArg, fun h1 h255 => ⟨fun hl => ?granted, fun r hl => ?renewed, fun q r hl hq => ?busy⟩⟩⟩
  case badArg =>
    refine answersOnly_of_taken ?_
    rw [exec_lease tk, leaseBody_badArg _ p hd]
  case granted =>
    refine ⟨_, exec_lease tk, ?_⟩
    rw [leaseBody_vacant (s := s.taken p) p (duration_accepted h1 h255) hl]
    exact taken_withLease_answer_meets s p _ e .ok _
  case renewed =>
    refine ⟨_, exec_lease tk, ?_⟩
    rw [leaseBody_holder (s := s.taken p) (duration_accepted h1 h255) hl]
    exact taken_withLease_answer_meets s p _ e .ok _
  case busy =>
    refine answersOnly_of_taken ?_
    rw [exec_lease tk, leaseBody_busy (s := s.taken p) (duration_accepted h1 h255) hl hq]

/-! ### UNLEASE (R138) -/

theorem unleaseBody_holder {s : State} {p : Port} {r : Nat} (e : Entry) (hl : s.lease = .held p r) :
    unleaseBody p e s = ({ s with lease := .vacant }).answer p e .ok { res1 := word r } := by
  simp only [unleaseBody, hl, if_true]

theorem unleaseBody_vacant {s : State} (p : Port) (e : Entry) (hl : s.lease = .vacant) :
    unleaseBody p e s = s.answer p e .notLeaseHolder { res1 := 0, res2 := 0 } := by
  simp only [unleaseBody, hl]

theorem unleaseBody_other {s : State} {p q : Port} {r : Nat} (e : Entry) (hl : s.lease = .held q r)
    (hq : q ≠ p) :
    unleaseBody p e s = s.answer p e .notLeaseHolder { res1 := 1, res2 := word q.val } := by
  simp only [unleaseBody, hl, if_neg hq]

/-- Settles O41, by the outcomes of R138: the port is OFFLINE, or the lease is its own, VACANT, or another port's. -/
theorem unleaseGivesUpTheLease : Obligations.UnleaseGivesUpTheLease := by
  refine ⟨fun s p e ho hc hm => answersOnly_notJoined rfl ho hc hm, fun s p e tk =>
    ⟨fun r hl => ?givenUp, fun hl => ?vacant, fun q r hl hq => ?other⟩⟩
  case givenUp =>
    refine ⟨_, exec_unlease tk, ?_⟩
    rw [unleaseBody_holder (s := s.taken p) e hl]
    exact taken_withLease_answer_meets s p _ e .ok _
  case vacant =>
    refine answersOnly_of_taken ?_
    rw [exec_unlease tk, unleaseBody_vacant (s := s.taken p) p e hl]
  case other =>
    refine answersOnly_of_taken ?_
    rw [exec_unlease tk, unleaseBody_other (s := s.taken p) e hl hq]

end Sys2Proof.Machine
end

section
/-! PROOFS. The machine: the step, the command arbiter, and the checks before a command's own rule (R99 to R101). -/

namespace Sys2Proof.Machine

/-! ### The step -/

/-- Settles O1, by the two cases of the queue of waiting events. -/
theorem stepTakesTheFrontEvent : Obligations.StepTakesTheFrontEvent := by
  refine ⟨fun c rest s hs => ?front, fun s hs => ?idle⟩
  case front => rw [step, hs]
  case idle => rw [step, hs]

/-! ### The command arbiter (R99, R100) -/

/-- Where the offer of an entry comes from. -/
theorem offered_iff (s : State) (p : Port) (e : Entry) : s.offered p = some e ↔
    s.device = .ready ∧ s.arbiterChoice = some p ∧ (s.window p).queue.head? = some e := by
  refine ⟨offered_some, fun ⟨hd, hc, he⟩ => ?_⟩
  rw [State.offered, if_pos ⟨hd, hc⟩, he]

/-- The grant goes to the first eligible port of the count, which starts above the port granted last (R100). -/
theorem arbiterChoice_iff (s : State) (p : Port) : s.arbiterChoice = some p ↔
    s.eligible p = true ∧ ∃ i : Fin 4, p = s.lastGranted + 1 + i
      ∧ ∀ j : Fin 4, j < i → s.eligible (s.lastGranted + 1 + j) = false := by
  have count : ∀ (f : Fin 4 → Bool) (g p : Fin 4), [g + 1, g + 2, g + 3, g].find? f = some p ↔
      f p = true ∧ ∃ i : Fin 4, p = g + 1 + i ∧ ∀ j : Fin 4, j < i → f (g + 1 + j) = false := by
    decide
  exact count s.eligible s.lastGranted p

/-- An eligible port has an oldest entry to offer. -/
theorem head_of_eligible {s : State} {p : Port} (h : s.eligible p = true) :
    ∃ e, (s.window p).queue.head? = some e := by
  obtain ⟨hq, -, -⟩ := (eligible_iff s p).1 h
  exact ⟨_, List.head?_eq_some_head hq⟩

/-- Some port is granted whenever one is eligible. -/
theorem arbiterChoice_of_eligible {s : State} {q : Port} (h : s.eligible q = true) :
    ∃ p, s.arbiterChoice = some p := by
  have around : ∀ g q : Port, q ∈ [g + 1, g + 2, g + 3, g] := by decide
  refine Option.isSome_iff_exists.1 ?_
  rw [State.arbiterChoice, List.find?_isSome]
  exact ⟨q, around _ _, h⟩

/-- Settles O3: eligibility is R99's list, and the offer is the oldest entry of the port that R100 grants. -/
theorem arbiterGrantsInTurn : Obligations.ArbiterGrantsInTurn := by
  refine ⟨eligible_iff, fun s p e => ?offer, fun s q hd hq => ?some⟩
  case offer =>
    rw [offered_iff, arbiterChoice_iff]
    tauto
  case some =>
    obtain ⟨p, hp⟩ := arbiterChoice_of_eligible hq
    obtain ⟨e, he⟩ := head_of_eligible (List.find?_some (p := s.eligible) hp)
    exact ⟨p, e, (offered_iff s p e).2 ⟨hd, hp, he⟩⟩

/-! ### The command rows -/

/-- What a command row runs once its command is taken. -/
def commandBody : Instr → Entry → State → State
  | .join p => joinBody p
  | .leave p => leaveBody p
  | .allocate p => allocateBody p
  | .release p => releaseBody p
  | .retain p => retainBody p
  | .send p => sendBody p
  | .take p => takeBody p
  | .refuse p => refuseBody p
  | .describe p => describeBody p
  | .inspect p => inspectBody p
  | .watch p => watchBody p
  | .unwatch p => unwatchBody p
  | .cancel p => cancelBody p
  | .poolstat p => poolstatBody p
  | .survey p => surveyBody p
  | .lease p => leaseBody p
  | .unlease p => unleaseBody p
  | .create p => createBody p
  | .quota p => quotaBody p
  | .close p => closeBody p
  | .recount p => recountBody p
  | .retire p => retireBody p
  | .restore p => restoreBody p
  | .evict p => evictBody p
  | .unknownCommand p => unknownBody p
  | _ => fun _ s => s

/-- JOIN passes the membership check from any state, every other command row from an ONLINE port only. -/
theorem exec_commandRow {c : Instr} {p : Port} {acc : BitVec 6 → Bool} (hc : commandRow c = some (p, acc))
    (s : State) :
    (c = .join p ∧ exec c s = .next (s.takeAny p acc (joinBody p)))
      ∨ (c ≠ .join p ∧ exec c s = .next (s.takeCommand p acc (commandBody c))) := by
  cases c <;> simp only [commandRow, Option.some.injEq, Prod.mk.injEq, reduceCtorEq] at hc <;>
    obtain ⟨rfl, rfl⟩ := hc
  case join => exact Or.inl ⟨rfl, rfl⟩
  all_goals exact Or.inr ⟨by simp, rfl⟩

/-- Without an offer from the row's port a command row changes nothing (log 3). -/
theorem exec_commandRow_notOffered {c : Instr} {s : State} {p : Port} {acc : BitVec 6 → Bool}
    (hc : commandRow c = some (p, acc)) (ho : s.offered p = none) : exec c s = .next s := by
  rcases exec_commandRow hc s with ⟨-, he⟩ | ⟨-, he⟩
  · rw [he, takeAny_none ho]
  · rw [he, takeCommand_none ho]

/-- Where the offered code is not the row's, a command row changes nothing (log 3). -/
theorem exec_commandRow_otherCode {c : Instr} {s : State} {p : Port} {acc : BitVec 6 → Bool} {e : Entry}
    (hc : commandRow c = some (p, acc)) (ho : s.offered p = some e) (ha : acc e.code = false) :
    exec c s = .next s := by
  rcases exec_commandRow hc s with ⟨-, he⟩ | ⟨-, he⟩
  · rw [he, takeAny_some ho, ha]; rfl
  · rw [he, takeCommand_other ho ha]

/-- Settles O4: in each of its four cases the row is not offered, or is offered another row's code. -/
theorem commandActsOnlyWhereOffered : Obligations.CommandActsOnlyWhereOffered :=
  fun _ _ _ _ hc => ⟨exec_commandRow_notOffered hc, fun _ ho ha => exec_commandRow_otherCode hc ho ha,
    fun _ hr => exec_commandRow_notOffered hc (notOffered_of_reclaiming hr),
    fun hd => exec_commandRow_notOffered hc (notOffered_of_initializing hd)⟩

/-- A code outside 01h to 18h names no command (R151). -/
theorem not_named_of {c : BitVec 6} (h : c = 0 ∨ 0x19 ≤ c.toNat) : Code.named c = false := by
  rcases h with rfl | h
  · rfl
  · simp only [Code.named, Bool.and_eq_false_iff, decide_eq_false_iff_not]
    omega

/-- Settles O5: the membership check of R101 comes before the code's own rule, and a code that names no command has
the row UNKNOWN_COMMAND. -/
theorem commandsAreCheckedBeforeTheirOwnRule : Obligations.CommandsAreCheckedBeforeTheirOwnRule := by
  refine ⟨fun c s p acc e hc hj ho ha hm => ?notJoined, fun s p e ho hm he => ?unknown⟩
  case notJoined =>
    refine answersOnly_of_taken ?_
    rcases exec_commandRow hc s with ⟨rfl, -⟩ | ⟨-, hx⟩
    · exact absurd rfl hj
    · rw [hx, takeCommand_offline ho ha hm]
  case unknown =>
    refine answersOnly_of_taken ?_
    have accepted : (!Code.named e.code) = true := by rw [not_named_of he]; rfl
    simp only [exec, execUnknownCommand]
    rw [takeCommand_online ho accepted hm, unknownBody]

end Sys2Proof.Machine
end

section
/-! PROOFS. The elementary changes that every shared operation of the pool engine is made of. An invariant that each
of them keeps is kept by every operation, so no invariant walks through the operations again. -/

namespace Sys2Proof.Machine

/-! ### The elementary changes -/

/-- The port is ONLINE. -/
def Online (s : State) (p : Port) : Prop := (s.member p).membership = .online

/-- The requester that a pool's recount has recorded, if it has one. -/
def PoolRec.requester? (q : PoolRec) : Option Port := q.recount.bind RecountRec.requester

/-- A pool record q' that keeps the state and the wait list of q, and in which a watch, a closer or a requester that
q does not have is that of an ONLINE port. -/
structure PoolRec.Follows (s : State) (q q' : PoolRec) : Prop where
  state : q'.state = q.state
  waitList : q'.waitList = q.waitList
  watches : ∀ x : Port, q'.watches[x] = q.watches[x] ∨ q'.watches[x] = none ∨ Online s x
  closer : ∀ x, q'.closer = some x → q.closer = some x ∨ Online s x
  requester : ∀ x, q'.requester? = some x → q.requester? = some x ∨ Online s x

/-- A pool record that keeps nothing for any port. -/
structure PoolRec.KeepsNothing (q : PoolRec) : Prop where
  waitList : q.waitList = []
  watches : ∀ x : Port, q.watches[x] = none
  closer : q.closer = none
  recount : q.recount = none

/-- A record r in place of the one at h gives no hold to a port that is not ONLINE. -/
def GivesNoHold (s : State) (h : HandleNo) (r : HandleRec) : Prop :=
  ∀ q, r.hold q ≠ 0 → Online s q ∨ ((s.record h).verifies = true ∧ (s.record h).hold q ≠ 0)

/-- The elementary changes of the shared operations. A grant, a cancelled wait and the turning away of all waiters are
one change each, since the reserved slot and the wait-list entry go together (R50, R52). -/
inductive Change : State → State → Prop where
  | write (s : State) (h : HandleNo) (r : HandleRec) : GivesNoHold s h r → Change s (s.writeRecord h r)
  | window (s : State) (p : Port) (f : Window → Window) :
      (f (s.window p)).queue.length ≤ (s.window p).queue.length →
      (f (s.window p)).results.length ≤ (s.window p).results.length →
      (f (s.window p)).reserved = (s.window p).reserved → Change s (s.updWindow p f)
  | lastGranted (s : State) (p : Port) : Change s { s with lastGranted := p }
  | pool (s : State) (k : PoolId) (f : PoolRec → PoolRec) :
      (s.pool k).Follows s (f (s.pool k)) → Change s (s.updPool k f)
  | renew (s : State) (k : PoolId) (q : PoolRec) : (s.pool k).state ≠ .active → q.KeepsNothing →
      Change s (s.updPool k fun _ => q)
  | close (s : State) (k : PoolId) :
      Change s ((s.turnAwayAll (s.pool k).waitList).updPool k PoolRec.closing)
  | grant (s : State) (k : PoolId) (h : HandleNo) (g : BitVec 4) (w : WaitEntry) (rest : List WaitEntry) :
      (s.pool k).waitList = w :: rest → Change s (s.grantTo k h g w rest)
  | cancel (s : State) (p : Port) (k : PoolId) (w : WaitEntry) : s.waitEntryOf p = some (k, w) →
      Change s ((s.updPool k fun q =>
        { q with waitList := q.waitList.filter fun v => decide (v.port ≠ p) }).postDeferred w .cancelled)
  | removeDeliveries (s : State) (h : HandleNo) : Change s (s.removeDeliveries h)
  | popDelivery (s : State) (p : Port) : Change s (s.popDelivery p)
  | addDelivery (s : State) (p : Port) (d : Delivery) (c : DeliveryClass) :
      Online s p → (s.member p).inbound.size < 32 → Change s (s.addDelivery p d c)
  | countFault (s : State) : Change s s.countFault
  | lease (s : State) (l : Lease) : (∀ q r, l = .held q r → Online s q ∨ HoldsLease s q) →
      Change s { s with lease := l }
  | evicted (s : State) (p : Port) : Change s (s.updMember p fun m => { m with evicted := true })

/-- A sequence of elementary changes. -/
def Changes : State → State → Prop := Relation.ReflTransGen Change

theorem Change.changes {s t : State} (c : Change s t) : Changes s t := Relation.ReflTransGen.single c

theorem Changes.refl (s : State) : Changes s s := Relation.ReflTransGen.refl

theorem Changes.andThen {s t u : State} (c : Changes s t) (d : Changes t u) : Changes s u :=
  Relation.ReflTransGen.trans c d

/-- What every elementary change keeps, a sequence of them keeps. -/
theorem Changes.keep {P : State → Prop} (step : ∀ s t, Change s t → P s → P t) {s t : State} (c : Changes s t)
    (hs : P s) : P t := by
  induction c with
  | refl => exact hs
  | tail _ ct ih => exact step _ _ ct ih

/-! ### What no elementary change touches -/

/-- The device, the pins, the queue of waiting events and every port's membership stand. -/
def StaysPut (s t : State) : Prop :=
  SameDevice s t ∧ ∀ q, (t.member q).membership = (s.member q).membership

theorem StaysPut.refl (s : State) : StaysPut s s := ⟨SameDevice.refl s, fun _ => rfl⟩

theorem StaysPut.trans {s t u : State} (a : StaysPut s t) (b : StaysPut t u) : StaysPut s u :=
  ⟨a.1.trans b.1, fun q => (b.2 q).trans (a.2 q)⟩

theorem Change.staysPut {s t : State} (c : Change s t) : StaysPut s t := by
  cases c with
  | popDelivery p => exact ⟨SameDevice.refl s, fun q => popDelivery_membership s p q⟩
  | addDelivery p d c => exact ⟨SameDevice.refl s, fun q => addDelivery_membership s p d c q⟩
  | evicted p => exact ⟨SameDevice.refl s, fun q => updMember_membership s p q _ fun _ => rfl⟩
  | removeDeliveries h => exact ⟨SameDevice.refl s, fun q => by rw [removeDeliveries_member]⟩
  | close k => exact ⟨by simp [SameDevice], fun q => by simp⟩
  | grant => exact ⟨by simp [SameDevice], fun q => by simp⟩
  | _ => exact ⟨SameDevice.refl s, fun q => rfl⟩

theorem Changes.staysPut {s t : State} (c : Changes s t) : StaysPut s t := by
  induction c with
  | refl => exact StaysPut.refl s
  | tail _ d ih => exact ih.trans d.staysPut

theorem Changes.online {s t : State} (c : Changes s t) {q : Port} (h : Online s q) : Online t q :=
  (c.staysPut.2 q).trans h

/-! ### Pool records and handle records -/

theorem PoolRec.Follows.refl (s : State) (q : PoolRec) : q.Follows s q :=
  ⟨rfl, rfl, fun _ => .inl rfl, fun _ => .inl, fun _ => .inl⟩

theorem requester_map (q : PoolRec) (f : RecountRec → RecountRec) (hf : ∀ rc, (f rc).requester = rc.requester) :
    (q.recount.map f).bind RecountRec.requester = q.requester? := by
  unfold PoolRec.requester?
  cases q.recount <;> simp [hf]

/-- A change of the stack, the counts, the quotas, the charges and the recount's figures keeps what the record keeps
for the ports. -/
theorem follows_of_same {s : State} {q q' : PoolRec} (h1 : q'.state = q.state) (h2 : q'.waitList = q.waitList)
    (h3 : q'.watches = q.watches) (h4 : q'.closer = q.closer) (h5 : q'.requester? = q.requester?) :
    q.Follows s q' :=
  ⟨h1, h2, fun x => .inl (by rw [h3]), fun x hx => .inl (by rw [← h4, hx]), fun x hx => .inl (by rw [← h5, hx])⟩

theorem adjustCharge_follows (s : State) (q : PoolRec) (h : HandleNo) (p : Port) (f : Nat → Nat) :
    q.Follows s (q.adjustCharge h p f) :=
  follows_of_same rfl rfl rfl rfl (requester_map q _ fun rc => by split <;> rfl)

theorem lostInUse_follows (s : State) (q : PoolRec) : q.Follows s q.lostInUse :=
  follows_of_same rfl rfl rfl rfl (requester_map q _ fun _ => rfl)

theorem watches_set (q : PoolRec) (p x : Port) (v : Option Nat) :
    (q.watches.set p.val v p.isLt)[x] = if x = p then v else q.watches[x] := by
  by_cases hx : x = p
  · subst hx; simp
  · have hv : p.val ≠ x.val := fun e => hx (Fin.ext e.symm)
    simp [hx, hv]

theorem disarmed_follows (s : State) (q : PoolRec) (p : Port) :
    q.Follows s { q with watches := q.watches.set p.val none p.isLt } := by
  refine ⟨rfl, rfl, fun x => ?_, fun _ => .inl, fun _ => .inl⟩
  rw [watches_set]
  split
  · exact .inr (.inl rfl)
  · exact .inl rfl

theorem unconfigured_keepsNothing : PoolRec.unconfigured.KeepsNothing :=
  ⟨rfl, fun x => by simp [PoolRec.unconfigured], rfl, rfl⟩

theorem blank_hold (st : HandleState) (g : BitVec 4) (q : Port) : (HandleRec.blank st g).hold q = 0 := by
  simp [HandleRec.blank, HandleRec.hold]

theorem setHold_hold (r : HandleRec) (p q : Port) (n : Nat) :
    (r.setHold p n).hold q = if q = p then n else r.hold q := by
  by_cases hq : q = p
  · subst hq; simp [HandleRec.setHold, HandleRec.hold]
  · have hv : p.val ≠ q.val := fun e => hq (Fin.ext e.symm)
    simp [HandleRec.setHold, HandleRec.hold, hq, hv]

theorem blank_givesNoHold (s : State) (h : HandleNo) (st : HandleState) (g : BitVec 4) :
    GivesNoHold s h (.blank st g) :=
  fun q hq => absurd (blank_hold st g q) hq

/-- A blank record is an elementary change wherever it is written. -/
theorem writeBlank_changes (s : State) (h : HandleNo) (st : HandleState) (g : BitVec 4) :
    Changes s (s.writeRecord h (.blank st g)) :=
  (Change.write s h _ (blank_givesNoHold s h st g)).changes

/-- A change of one pool record that keeps what it keeps for the ports. -/
theorem updPool_changes {s : State} {k : PoolId} {f : PoolRec → PoolRec}
    (hf : (s.pool k).Follows s (f (s.pool k))) : Changes s (s.updPool k f) :=
  (Change.pool s k f hf).changes

/-! ### The shared operations -/

theorem raise_changes (s : State) (p : Port) (c : Cause) : Changes s (s.raise p c) :=
  (Change.window s p _ le_rfl le_rfl rfl).changes

theorem raiseOnline_changes (s : State) (c : Cause) (ps : List Port) : Changes s (s.raiseOnline c ps) := by
  induction ps generalizing s with
  | nil => exact .refl s
  | cons p ps ih =>
    rw [State.raiseOnline]
    split
    · exact (raise_changes s p c).andThen (ih _)
    · exact ih _

theorem taken_changes (s : State) (p : Port) : Changes s (s.taken p) :=
  (Change.window s p (fun w => { w with queue := w.queue.tail }) (by simp) le_rfl rfl).changes.andThen
    (Change.lastGranted _ p).changes

theorem fireWatch_changes (s : State) (k : PoolId) (p : Port) : Changes s (s.fireWatch k p) :=
  ((updPool_changes (disarmed_follows s _ p)).andThen (raise_changes _ p .watch)).andThen
    (Change.window _ p _ le_rfl le_rfl rfl).changes

theorem testWatch_changes (s : State) (k : PoolId) (p : Port) : Changes s (s.testWatch k p) := by
  rw [testWatch_eq]
  split
  · exact fireWatch_changes s k p
  · exact .refl s

theorem testWatches_changes (s : State) (k : PoolId) : Changes s (s.testWatches k) :=
  (((testWatch_changes s k 0).andThen (testWatch_changes _ k 1)).andThen (testWatch_changes _ k 2)).andThen
    (testWatch_changes _ k 3)

theorem unassignAll_changes (s : State) (hs : List HandleNo) : Changes s (s.unassignAll hs) := by
  induction hs generalizing s with
  | nil => exact .refl s
  | cons h hs ih => exact (writeBlank_changes s h _ _).andThen (ih _)

theorem unassignAll_pool (s : State) (hs : List HandleNo) (k : PoolId) :
    (s.unassignAll hs).pool k = s.pool k := by
  simp [State.pool]

theorem teardown_changes {s : State} {k : PoolId} (hk : (s.pool k).state ≠ .active) :
    Changes s (s.teardown k) := by
  have renewed : Changes s ((s.unassignAll (s.pool k).range).updPool k fun _ => .unconfigured) :=
    (unassignAll_changes s _).andThen
      (Change.renew _ k _ (by rwa [unassignAll_pool]) unconfigured_keepsNothing).changes
  rw [State.teardown]
  split
  · exact renewed.andThen (raise_changes _ _ _)
  · exact renewed

theorem drainTest_changes (s : State) (k : PoolId) : Changes s (s.drainTest k) := by
  rw [State.drainTest]
  split
  · next hd => exact teardown_changes (by rw [((drained_iff _).1 hd).1]; simp)
  · exact .refl s

theorem push_changes (s : State) (k : PoolId) (h : HandleNo) : Changes s (s.push k h) :=
  ((updPool_changes (follows_of_same rfl rfl rfl rfl rfl)).andThen (testWatches_changes _ k)).andThen
    (drainTest_changes _ k)

theorem dispose_changes (s : State) (h : HandleNo) : Changes s (s.dispose h).1 := by
  rcases hk : (s.record h).state.pool? with _ | k
  · rw [dispose_nowhere hk]; exact .refl s
  · rcases hw : (s.pool k).waitList with _ | ⟨w, rest⟩
    · rw [dispose_pushes hk hw]
      dsimp only
      exact (writeBlank_changes s h (.free k) _).andThen (push_changes _ k h)
    · rw [dispose_grants hk hw]
      dsimp only
      exact (Change.grant s k h ((s.record h).gen + 1) w rest hw).changes

theorem disposeIfDone_changes (s : State) (h : HandleNo) : Changes s (s.disposeIfDone h).1 := by
  rw [State.disposeIfDone]
  split
  · exact dispose_changes s h
  · exact .refl s

theorem checkFault_changes (s : State) (h : HandleNo) (popped : Bool) : Changes s (s.checkFault h popped) := by
  rw [State.checkFault]
  split
  · exact (writeBlank_changes s h _ _).andThen (Change.countFault _).changes
  · next k hk =>
    have lost : Changes s (((s.writeRecord h (.blank (.retired k .check) ((s.record h).gen + 1))).removeDeliveries
        h).countFault) :=
      ((writeBlank_changes s h _ _).andThen (Change.removeDeliveries _ h).changes).andThen
        (Change.countFault _).changes
    split
    · exact lost.andThen (updPool_changes (follows_of_same rfl rfl rfl rfl rfl))
    · split
      · exact lost.andThen (updPool_changes (follows_of_same rfl rfl rfl rfl rfl))
      · split
        · exact lost
        all_goals exact (lost.andThen (updPool_changes (lostInUse_follows _ _))).andThen (drainTest_changes _ k)

theorem sweepFault_changes (s : State) (h : HandleNo) : Changes s (s.sweepFault h) :=
  (checkFault_changes s h false).andThen (raiseOnline_changes _ _ _)

/-- A delivery is lost to a record that verifies (R70). -/
theorem lowerTransit_changes {s : State} {h : HandleNo} (hv : (s.record h).verifies = true) :
    Changes s (s.lowerTransit h).1 :=
  (Change.write s h { s.record h with transit := (s.record h).transit - 1 }
    fun _ hq => .inr ⟨hv, hq⟩).changes.andThen (disposeIfDone_changes _ h)

theorem dropAll_changes (p : Port) (fuel : Nat) (s : State) : Changes s (State.dropAll p fuel s).1 := by
  induction fuel generalizing s with
  | zero => exact .refl s
  | succ n ih =>
    rw [State.dropAll]
    split
    · exact .refl s
    · dsimp only
      split
      · next hv =>
        exact ((Change.popDelivery s p).changes.andThen (lowerTransit_changes (s := s.popDelivery p) hv)).andThen
          (ih _)
      · exact ((Change.popDelivery s p).changes.andThen (sweepFault_changes _ _)).andThen (ih _)

theorem sweepOne_changes (s : State) (p : Port) (h : HandleNo) : Changes s (s.sweepOne p h) := by
  rw [State.sweepOne]
  split
  · exact sweepFault_changes s h
  · next hv =>
    split
    · next k hk =>
      split
      · exact .refl s
      · refine ((updPool_changes (adjustCharge_follows s _ h p _)).andThen
          (Change.write _ h _ fun q hq => ?_).changes).andThen (disposeIfDone_changes _ h)
        rw [setHold_hold] at hq
        split at hq
        · exact absurd rfl hq
        · exact .inr ⟨by simpa using hv, hq⟩
    all_goals exact .refl s

theorem sweepAll_changes (p : Port) (hs : List HandleNo) (s : State) : Changes s (s.sweepAll p hs) := by
  induction hs generalizing s with
  | nil => exact .refl s
  | cons h hs ih => exact (sweepOne_changes s p h).andThen (ih _)

theorem countAll_changes (k : PoolId) (hs : List HandleNo) (s : State) : Changes s (s.countAll k hs) := by
  induction hs generalizing s with
  | nil => exact .refl s
  | cons h hs ih =>
    rw [State.countAll]
    split
    · exact .refl s
    · refine Changes.andThen ?_ (ih _)
      split
      · exact updPool_changes (follows_of_same rfl rfl rfl rfl (requester_map _ _ fun _ => rfl))
      · exact sweepFault_changes s h

theorem completeRecount_changes (s : State) (k : PoolId) (rc : RecountRec) :
    Changes s (s.completeRecount k rc) := by
  have done : Changes s (s.updPool k fun q =>
      { q with
        charge := rc.shadow
        recountNeeded := if rc.disturbed then q.recountNeeded else false
        recount := none }) :=
    updPool_changes ⟨rfl, rfl, fun _ => .inl rfl, fun _ => .inl, fun x hx => by cases hx⟩
  rw [State.completeRecount]
  split
  · exact done.andThen (raise_changes _ _ _)
  · exact done

theorem recountSlice_changes (s : State) (k : PoolId) (n : Nat) : Changes s (s.recountSlice k n) := by
  rw [State.recountSlice]
  split
  · exact countAll_changes k _ s
  · next rc hrc =>
    have counted := countAll_changes k (List.range' n ((s.pool k).sliceEnd n - n)) s
    split
    · exact counted.andThen (completeRecount_changes _ k rc)
    · refine counted.andThen (updPool_changes (follows_of_same rfl rfl rfl rfl ?_))
      simp [PoolRec.requester?, hrc]

theorem popUntilGood_changes (k : PoolId) (p : Port) (hs : List HandleNo) (n : Nat) (s : State) :
    Changes s (popUntilGood k p hs n s).state := by
  induction hs generalizing n s with
  | nil => exact .refl s
  | cons h hs ih =>
    have pop : Changes s (s.updPool k fun q => { q with stack := hs }) :=
      updPool_changes (follows_of_same rfl rfl rfl rfl rfl)
    rw [popUntilGood]
    split
    · exact pop
    · exact ((pop.andThen (checkFault_changes _ h true)).andThen (raise_changes _ p .fault)).andThen (ih _ _)

theorem freeAll_changes (k : PoolId) (hs : List HandleNo) (s : State) : Changes s (s.freeAll k hs) := by
  induction hs generalizing s with
  | nil => exact .refl s
  | cons h hs ih => exact (writeBlank_changes s h _ _).andThen (ih _)

theorem freeAll_pool (s : State) (k j : PoolId) (hs : List HandleNo) : (s.freeAll k hs).pool j = s.pool j := by
  simp [State.pool]

/-- After the check-fault path of a command FAULT is set, and the command remains to be answered (R17, R18). -/
theorem faulted_changes (s : State) (p : Port) (h : HandleNo) :
    Changes s ((s.checkFault h false).raise p .fault) :=
  (checkFault_changes s h false).andThen (raise_changes _ p .fault)

end Sys2Proof.Machine
end

section
/-! PROOFS. What each event comes down to: a sequence of elementary changes, and at most one change of its own. -/

namespace Sys2Proof.Machine

/-! ### How a command ends -/

/-- Elementary changes, and then the answer of the command. -/
def Answers (p : Port) (e : Entry) (s t : State) : Prop :=
  ∃ u st d, Changes s u ∧ t = u.answer p e st d

/-- Elementary changes, and then the beginning of a waiting allocation of a port that has none (R51). -/
def Waits (p : Port) (e : Entry) (s t : State) : Prop :=
  ∃ u k, Changes s u ∧ u.waitEntryOf p = none ∧ (u.pool k).state = .active ∧ t = beginWaiting p k e u

/-- Elementary changes, then the departure of the ONLINE port x and further changes, after which the inbound queue of
x is empty (R122). -/
def Leaves (x : Port) (s t : State) : Prop :=
  ∃ a, Changes s a ∧ Online a x ∧ Changes (a.departFrom x) t ∧ (t.member x).inbound = ⟨[], []⟩

theorem Answers.now (s : State) (p : Port) (e : Entry) (st : Status) (d : Data) :
    Answers p e s (s.answer p e st d) := ⟨s, st, d, .refl s, rfl⟩

theorem Changes.answers {s u : State} (c : Changes s u) (p : Port) (e : Entry) (st : Status) (d : Data) :
    Answers p e s (u.answer p e st d) := ⟨u, st, d, c, rfl⟩

theorem isOnline_iff (s : State) (p : Port) : s.isOnline p = true ↔ Online s p := by
  simp [State.isOnline, Online]

theorem answerFault_answers (s : State) (p : Port) (e : Entry) (h : HandleNo) :
    Answers p e s (s.answerFault p e h) :=
  (faulted_changes s p h).answers p e _ _

/-- Past token validation a command runs its body on a record that verifies. -/
theorem withToken_answers {s : State} {p : Port} {e : Entry} {body : HandleNo → PoolId → State}
    (hb : ∀ h k, (s.record h).verifies = true → Answers p e s (body h k)) :
    Answers p e s (s.withToken p e body) := by
  rcases hv : (s.record (tokenHandle e.arg0)).verifies with _ | _
  · rw [withToken_fault hv]; exact answerFault_answers s p e _
  · rw [State.withToken]
    split
    · exact answerFault_answers s p e _
    · exact .now s p e _ _
    · exact .now s p e _ _
    · split
      · exact .now s p e _ _
      · exact hb _ _ hv

/-- Past the checks of R42 a command runs its body on a record that verifies. -/
theorem withHandle_answers {s : State} {p : Port} {e : Entry} {body : HandleNo → HandleRec → State}
    (hb : ∀ h, (s.record h).verifies = true → Answers p e s (body h (s.record h))) :
    Answers p e s (s.withHandle p e body) := by
  rw [State.withHandle]
  split
  · exact .now s p e _ _
  · next h hh =>
    split
    · exact .now s p e _ _
    · split
      · exact answerFault_answers s p e h
      · next hv => exact hb h (by simpa using hv)

/-! ### Holding and passing -/

/-- A hold of an ONLINE port may change in a record that verifies. -/
theorem setHold_givesNoHold {s : State} {h : HandleNo} {p : Port} (hp : Online s p)
    (hv : (s.record h).verifies = true) (n : Nat) : GivesNoHold s h ((s.record h).setHold p n) := by
  intro q hq
  rw [setHold_hold] at hq
  split at hq
  · next hqp => exact .inl (hqp ▸ hp)
  · exact .inr ⟨hv, hq⟩

theorem lowerCharge_changes (s : State) (k : PoolId) (h : HandleNo) (p : Port) :
    Changes s (s.lowerCharge k h p) := updPool_changes (adjustCharge_follows s _ h p _)

theorem raiseCharge_changes (s : State) (k : PoolId) (h : HandleNo) (p : Port) :
    Changes s (s.raiseCharge k h p) := updPool_changes (adjustCharge_follows s _ h p _)

/-- The charge falls where the hold reaches 0, and the record is written with the new hold. -/
theorem lowered_changes {s : State} {k : PoolId} {h : HandleNo} {p : Port} {c : Prop} [Decidable c] {r : HandleRec}
    (hr : GivesNoHold s h r) : Changes s ((if c then s.lowerCharge k h p else s).writeRecord h r) := by
  split
  · exact (lowerCharge_changes s k h p).andThen (Change.write (s.lowerCharge k h p) h r hr).changes
  · exact (Change.write s h r hr).changes

section
variable {s : State} {p : Port} {e : Entry}

theorem releaseBody_answers (hp : Online s p) : Answers p e s (releaseBody p e s) := by
  refine withToken_answers fun h k hv => ?_
  exact ((lowered_changes (setHold_givesNoHold hp hv _)).andThen (disposeIfDone_changes _ h)).answers p e _ _

theorem retainBody_answers (hp : Online s p) : Answers p e s (retainBody p e s) := by
  refine withToken_answers fun h k hv => ?_
  dsimp only
  split
  · exact .now s p e _ _
  · exact (Change.write s h _ (setHold_givesNoHold hp hv _)).changes.answers p e _ _

theorem describeBody_answers : Answers p e s (describeBody p e s) := by
  refine withToken_answers fun h k hv => ?_
  exact (Change.write s h { s.record h with length := e.arg1, tag := e.arg2 }
    fun _ hq => .inr ⟨hv, hq⟩).changes.answers p e _ _

theorem inspectBody_answers : Answers p e s (inspectBody p e s) := by
  rw [inspectBody]
  split
  · exact .now s p e _ _
  · next h hh =>
    dsimp only
    split
    · exact answerFault_answers s p e h
    · exact .now s p e _ _

theorem sendTo_answers {x : Port} {h : HandleNo} {k : PoolId} (hp : Online s p) (hx : Online s x)
    (hv : (s.record h).verifies = true) (room : (s.member x).inbound.size < 32) :
    Answers p e s (sendTo p x e s h k) := by
  have lowered := lowered_changes (s := s) (k := k) (h := h) (p := p)
    (c := (if e.flagA then (s.record h).hold p else (s.record h).hold p - 1) = 0)
    (r := { (s.record h).setHold p (if e.flagA then (s.record h).hold p else (s.record h).hold p - 1) with
      transit := (s.record h).transit + 1 }) (setHold_givesNoHold hp hv _)
  refine (lowered.andThen (Change.addDelivery _ x _ _ (lowered.online hx) ?_).changes).answers p e _ _
  rw [writeRecord_member]
  repeat' split
  all_goals exact room

theorem sendBody_answers (hp : Online s p) : Answers p e s (sendBody p e s) := by
  refine withToken_answers fun h k hv => ?_
  rw [sendChecks]
  split
  · exact .now s p e _ _
  · next x hx =>
    repeat' split
    case isFalse.isFalse.isFalse.isFalse _ online room _ =>
      exact sendTo_answers hp (by simpa [isOnline_iff] using online) hv (by omega)
    all_goals exact .now s p e _ _

theorem acceptDelivery_answers {d : Delivery} {cl : DeliveryClass} (hp : Online s p)
    (hv : (s.record (tokenHandle d.token)).verifies = true) : Answers p e s (acceptDelivery p e s d cl) := by
  have popped := (Change.popDelivery s p).changes
  have written := popped.andThen (Change.write (s.popDelivery p) (tokenHandle d.token)
    { (s.record (tokenHandle d.token)).setHold p ((s.record (tokenHandle d.token)).hold p + 1) with
      transit := (s.record (tokenHandle d.token)).transit - 1 }
    (setHold_givesNoHold (s := s.popDelivery p) (popped.online hp) hv _)).changes
  refine Changes.answers ?_ p e _ _
  split
  · split
    · exact written.andThen (raiseCharge_changes _ _ _ p)
    · exact written
  · exact written

theorem takeBody_answers (hp : Online s p) : Answers p e s (takeBody p e s) := by
  rw [takeBody]
  split
  · exact .now s p e _ _
  · next d cl hd =>
    dsimp only
    split
    · exact answerFault_answers s p e _
    · next hv =>
      split
      · exact .now s p e _ _
      · exact acceptDelivery_answers hp (by simpa using hv)

theorem size_tail_le (q : Inbound) : q.tail.size ≤ q.size := by
  rcases hc : q.chosen with _ | ⟨d, c⟩
  · rw [Inbound.chosen_none.1 hc]; rfl
  · have := Inbound.size_tail hc; omega

theorem popDelivery_size_le (s : State) (p q : Port) :
    ((s.popDelivery p).member q).inbound.size ≤ (s.member q).inbound.size := by
  by_cases hq : q = p
  · subst hq; rw [popDelivery_member_self]; exact size_tail_le _
  · rw [popDelivery_member_ne s hq]

theorem refuseBody_answers : Answers p e s (refuseBody p e s) := by
  have popped := (Change.popDelivery s p).changes
  rw [refuseBody]
  split
  · exact .now s p e _ _
  · next d cl hd =>
    dsimp only
    split
    · exact answerFault_answers s p e _
    · next hv =>
      split
      · next ret =>
        simp only [returnable, State.isOnline, Bool.and_eq_true, decide_eq_true_eq] at ret
        obtain ⟨⟨-, online⟩, room⟩ := ret
        exact (popped.andThen (Change.addDelivery _ d.sender ⟨d.token, p, .returned⟩ cl (popped.online online)
          (lt_of_le_of_lt (popDelivery_size_le s p _) room)).changes).answers p e _ _
      · exact (popped.andThen (lowerTransit_changes (s := s.popDelivery p) (by simpa using hv))).answers p e _ _

/-! ### Pools, the recount and the lease -/

theorem watchBody_answers (hp : Online s p) : Answers p e s (watchBody p e s) := by
  have arm : ∀ (k : PoolId) (n : Nat), Changes s
      (s.updPool k fun q => { q with watches := q.watches.set p.val (some n) p.isLt }) := by
    refine fun k n => updPool_changes ⟨rfl, rfl, fun x => ?_, fun _ => .inl, fun _ => .inl⟩
    rw [watches_set]
    split
    · next hx => exact .inr (.inr (hx ▸ hp))
    · exact .inl rfl
  rw [watchBody]
  split
  · exact .now s p e _ _
  · next k hk =>
    split
    · exact .now s p e _ _
    · exact .now s p e _ _
    · split
      · exact .now s p e _ _
      · rw [armWatch]
        split
        · exact ((arm k _).andThen (fireWatch_changes _ k p)).answers p e _ _
        · exact (arm k _).answers p e _ _

theorem unwatchBody_answers : Answers p e s (unwatchBody p e s) := by
  rw [unwatchBody]
  split
  · exact .now s p e _ _
  · exact (updPool_changes (disarmed_follows s _ p)).answers p e _ _

theorem cancelBody_answers : Answers p e s (cancelBody p e s) := by
  rcases hw : s.waitEntryOf p with _ | ⟨k, w⟩
  · rw [cancelBody_none e hw]; exact .now s p e _ _
  · rw [cancelBody_some e hw]; exact (Change.cancel s p k w hw).changes.answers p e _ _

theorem poolstatBody_answers : Answers p e s (poolstatBody p e s) := by
  rw [poolstatBody]
  repeat' split
  all_goals exact .now s p e _ _

theorem surveyBody_answers : Answers p e s (surveyBody p e s) := .now s p e _ _

theorem unknownBody_answers : Answers p e s (unknownBody p e s) := .now s p e _ _

theorem leaseBody_answers (hp : Online s p) : Answers p e s (leaseBody p e s) := by
  have held : ∀ d, Changes s { s with lease := .held p d } := by
    refine fun d => (Change.lease s _ fun q r hq => ?_).changes
    cases hq
    exact .inl hp
  rw [leaseBody]
  split
  · exact .now s p e _ _
  · split
    · exact (held _).answers p e _ _
    · split
      · exact (held _).answers p e _ _
      · exact .now s p e _ _

theorem unleaseBody_answers : Answers p e s (unleaseBody p e s) := by
  have vacant : Changes s { s with lease := .vacant } :=
    (Change.lease s .vacant fun q r hq => by cases hq).changes
  rw [unleaseBody]
  split
  · exact .now s p e _ _
  · split
    · exact vacant.answers p e _ _
    · exact .now s p e _ _

theorem created_keepsNothing (first count : Nat) : (PoolRec.created first count).KeepsNothing :=
  ⟨rfl, fun x => by simp [PoolRec.created, PoolRec.unconfigured], rfl, rfl⟩

theorem createBody_answers : Answers p e s (createBody p e s) := by
  rw [createBody]
  split
  · exact .now s p e _ _
  · next k hk =>
    split
    · exact .now s p e _ _
    split
    · exact .now s p e _ _
    split
    · exact .now s p e _ _
    next hu =>
    rw [createOver]
    split
    · split
      · exact answerFault_answers s p e _
      · exact .now s p e _ _
    · refine ((freeAll_changes k _ s).andThen (Change.renew _ k _ ?_ (created_keepsNothing _ _)).changes).answers
        p e _ _
      rw [freeAll_pool, not_not.1 hu]
      simp

theorem quotaBody_answers : Answers p e s (quotaBody p e s) := by
  rw [quotaBody]
  repeat' split
  case h_1.isFalse.isFalse.isFalse =>
    exact (updPool_changes (follows_of_same rfl rfl rfl rfl rfl)).answers p e _ _
  all_goals exact .now s p e _ _

theorem closing_pool (s : State) (k : PoolId) (ws : List WaitEntry) :
    ((s.turnAwayAll ws).updPool k PoolRec.closing).pool k = (s.pool k).closing := by
  rw [updPool_pool_self, State.pool, turnAwayAll_pools, ← State.pool]

theorem closeBody_answers (hp : Online s p) : Answers p e s (closeBody p e s) := by
  rw [closeBody]
  split
  · exact .now s p e _ _
  · next k hk =>
    split
    · exact .now s p e _ _
    split
    · exact .now s p e _ _
    · exact .now s p e _ _
    have closed := (Change.close s k).changes
    rw [closeActive]
    split
    · refine (closed.andThen (teardown_changes ?_)).answers p e _ _
      rw [closing_pool]
      simp [PoolRec.closing]
    · refine (closed.andThen (updPool_changes ⟨rfl, rfl, fun _ => .inl rfl, fun x hx => ?_, fun _ => .inl⟩)).answers
        p e _ _
      cases hx
      exact .inr (closed.online hp)

theorem recountBody_answers (hp : Online s p) : Answers p e s (recountBody p e s) := by
  rw [recountBody]
  split
  · exact .now s p e _ _
  · next k hk =>
    dsimp only
    repeat' split
    case isFalse.isFalse.isFalse =>
      refine (updPool_changes ⟨rfl, rfl, fun _ => .inl rfl, fun _ => .inl, fun x hx => ?_⟩).answers p e _ _
      cases hx
      exact .inr hp
    all_goals exact .now s p e _ _

theorem retireFree_answers (h : HandleNo) (k : PoolId) : Answers p e s (retireFree p e s h k) :=
  ((updPool_changes (follows_of_same rfl rfl rfl rfl rfl)).andThen (writeBlank_changes _ h _ _)).answers p e _ _

theorem lowerIfHeld_changes (s : State) (k : PoolId) (h : HandleNo) (r : HandleRec) (q : Port) :
    Changes s (s.lowerIfHeld k h r q) := by
  rw [State.lowerIfHeld]
  split
  · exact .refl s
  · exact lowerCharge_changes s k h q

theorem retireInUse_answers (h : HandleNo) (k : PoolId) : Answers p e s (retireInUse p e s h k) := by
  have lowered := (((lowerIfHeld_changes s k h (s.record h) 0).andThen
    (lowerIfHeld_changes _ k h (s.record h) 1)).andThen (lowerIfHeld_changes _ k h (s.record h) 2)).andThen
      (lowerIfHeld_changes _ k h (s.record h) 3)
  have withdrawn := (lowered.andThen (writeBlank_changes _ h (.retired k .admin) ((s.record h).gen + 1))).andThen
    (Change.removeDeliveries _ h).changes
  exact ((withdrawn.andThen (updPool_changes (k := k) (f := fun q => { q with retired := q.retired + 1 })
    (follows_of_same rfl rfl rfl rfl rfl))).andThen (drainTest_changes _ k)).answers p e _ _

theorem retireBody_answers : Answers p e s (retireBody p e s) := by
  refine withHandle_answers fun h hv => ?_
  split
  · exact .now s p e _ _
  · exact .now s p e _ _
  · exact retireFree_answers h _
  · exact retireInUse_answers h _

theorem restoreBody_answers : Answers p e s (restoreBody p e s) := by
  refine withHandle_answers fun h hv => ?_
  split
  · exact ((updPool_changes (follows_of_same rfl rfl rfl rfl rfl)).andThen (dispose_changes _ h)).answers p e _ _
  all_goals exact .now s p e _ _

/-! ### Allocation -/

theorem checkFault_popped_poolState (s : State) (h : HandleNo) (j : PoolId) :
    ((s.checkFault h true).pool j).state = (s.pool j).state := by
  rw [State.checkFault]
  split
  · rfl
  · next k hk =>
    simp only [if_true, updPool_pool]
    split
    · next hj => subst hj; rfl
    · rfl

theorem popUntilGood_poolState (s : State) (k j : PoolId) (p : Port) (hs : List HandleNo) (n : Nat) :
    ((popUntilGood k p hs n s).state.pool j).state = (s.pool j).state := by
  have pop : ∀ rest : List HandleNo, ((s.updPool k fun q => { q with stack := rest }).pool j).state
      = (s.pool j).state := by
    intro rest
    rw [updPool_pool]
    split
    · next hj => subst hj; rfl
    · rfl
  induction hs generalizing n s with
  | nil => rfl
  | cons h hs ih =>
    rw [popUntilGood]
    split
    · exact pop hs
    · rw [ih, raise_pool, checkFault_popped_poolState, pop hs]
      intro rest
      rw [updPool_pool]
      split
      · next hj => subst hj; rfl
      · rfl

theorem allocateHandle_answers {k : PoolId} {h : HandleNo} {n : Nat} (hp : Online s p) :
    Answers p e s (allocateHandle p k h n e s) := by
  refine ((Change.write s h _ fun q hq => ?_).changes.andThen (raiseCharge_changes _ k h p)).answers p e _ _
  rw [setHold_hold] at hq
  split at hq
  · next hqp => exact .inl (hqp ▸ hp)
  · exact absurd (blank_hold _ _ q) hq

theorem allocateBody_ends (hp : Online s p) :
    Answers p e s (allocateBody p e s) ∨ Waits p e s (allocateBody p e s) := by
  rw [allocateBody]
  split
  · exact .inl (.now s p e _ _)
  · next k hk =>
    dsimp only
    split
    · exact .inl (.now s p e _ _)
    · exact .inl (.now s p e _ _)
    · next active =>
      have popped := popUntilGood_changes k p (s.pool k).stack 0 s
      split
      · exact .inl (.now s p e _ _)
      · split
        · next h hh =>
          obtain ⟨u, st, d, c, hu⟩ := allocateHandle_answers (e := e) (k := k) (h := h)
            (n := (popUntilGood k p (s.pool k).stack 0 s).faulty) (popped.online hp)
          exact .inl ⟨u, st, d, popped.andThen c, hu⟩
        · rw [allocateEmpty]
          split
          · split
            · exact .inl (popped.answers p e _ _)
            · next hw =>
              exact .inr ⟨_, k, popped, hw, (popUntilGood_poolState s k k p _ _).trans active, rfl⟩
          · exact .inl (popped.answers p e _ _)

/-! ### Departures -/

theorem checkFault_size_le (s : State) (h : HandleNo) (popped : Bool) (q : Port) :
    ((s.checkFault h popped).member q).inbound.size ≤ (s.member q).inbound.size := by
  rw [State.checkFault]
  split
  · exact le_rfl
  · have lost := Inbound.size_without (s.member q).inbound h
    repeat' split
    all_goals simpa using lost

/-- With fuel for every delivery the drops empty the inbound queue of the departing port (R123). -/
theorem dropAll_inbound (p : Port) (fuel : Nat) (s : State) (hf : (s.member p).inbound.size ≤ fuel) :
    ((State.dropAll p fuel s).1.member p).inbound = ⟨[], []⟩ := by
  induction fuel generalizing s with
  | zero =>
    refine Inbound.chosen_none.1 ?_
    rcases hc : (s.member p).inbound.chosen with _ | ⟨d, c⟩
    · exact hc
    · have := Inbound.size_tail hc; omega
  | succ n ih =>
    rw [State.dropAll]
    split
    · next hc => exact Inbound.chosen_none.1 hc
    · next d c hc =>
      have shorter := Inbound.size_tail hc
      have popped : ((s.popDelivery p).member p).inbound.size ≤ n := by
        rw [popDelivery_member_self]; dsimp only; omega
      dsimp only
      split
      · exact ih _ (by simpa using popped)
      · refine ih _ (le_trans ?_ popped)
        rw [State.sweepFault, raiseOnline_member]
        exact checkFault_size_le _ _ _ p

theorem prologue_leaves {x : Port} (hx : Online s x) : Leaves x s (s.prologue x).1 := by
  refine ⟨s, .refl s, hx, (dropAll_changes x _ _).andThen (raiseOnline_changes _ _ _), ?_⟩
  rw [State.prologue]
  simp only [raiseOnline_member]
  refine dropAll_inbound x _ _ (le_of_eq ?_)
  have departed : (s.departFrom x).member x
      = (s.updMember x fun m => { m with membership := .reclaiming 0 }).member x := rfl
  rw [departed, updMember_member_self]

theorem Changes.leaves {a t : State} {x : Port} (c : Changes s a) (l : Leaves x a t) : Leaves x s t := by
  obtain ⟨b, c', h⟩ := l
  exact ⟨b, c.andThen c', h⟩

theorem leaveBody_leaves (hp : Online s p) :
    ∃ u st d, Leaves p s u ∧ leaveBody p e s = u.answer p e st d := by
  have emptied : Changes s (s.updWindow p fun w => { w with queue := [], results := [] }) :=
    (Change.window s p _ (by simp) (by simp) rfl).changes
  exact ⟨_, _, _, emptied.leaves (prologue_leaves (emptied.online hp)), rfl⟩

theorem evictBody_ends : Answers p e s (evictBody p e s)
    ∨ ∃ x u st d, x ≠ p ∧ Leaves x s u ∧ evictBody p e s = u.answer p e st d := by
  rw [evictBody]
  split
  · exact .inl (.now s p e _ _)
  · next x hx =>
    repeat' split
    case isFalse.isFalse.isFalse _ other online =>
      have cleared : Changes s (s.updWindow x Window.cleared) :=
        (Change.window s x _ (by simp [Window.cleared]) (by simp [Window.cleared]) rfl).changes
      have marked := cleared.andThen (Change.evicted _ x).changes
      exact .inr ⟨x, _, _, _, other, marked.leaves
        (prologue_leaves (marked.online (by simpa [isOnline_iff] using online))), rfl⟩
    all_goals exact .inl (.now s p e _ _)

end

/-! ### The events -/

/-- The event takes the port x out: its LEAVE, the membership side of its reset, or another port's EVICT (R116). -/
def TakesOut (c : Instr) (x : Port) : Prop :=
  c = .leave x ∨ c = .portResetMembership x ∨ ∃ p, p ≠ x ∧ c = .evict p

/-- The changes of the device, the tables under initialization and the timebase, which no port brings about. -/
def ClockWork (s t : State) : Prop :=
  t = { s with rstAsserted := false } ∨ t = { s with divider := 0 }
    ∨ ∃ n, s.device = .initializing n ∧ t = s.initializeRecord n

/-- What an event comes down to. -/
inductive Event : Instr → State → State → Prop where
  | changes (c : Instr) (s t : State) : Changes s t → Event c s t
  | answers (c : Instr) (s t : State) (p : Port) (e : Entry) : s.eligible p = true → Answers p e s t → Event c s t
  | waits (c : Instr) (s t : State) (p : Port) (e : Entry) : s.eligible p = true → Online s p → Waits p e s t →
      Event c s t
  | departs (c : Instr) (s t : State) (x : Port) : TakesOut c x → Leaves x s t → Event c s t
  | departsAnswered (c : Instr) (s u : State) (x p : Port) (e : Entry) (st : Status) (d : Data) :
      TakesOut c x → s.eligible p = true → Leaves x s u → Event c s (u.answer p e st d)
  | joins (s : State) (p : Port) (e : Entry) (st : Status) (d : Data) :
      s.eligible p = true → (s.member p).membership = .offline →
      Event (.join p) s (((s.taken p).updMember p fun m =>
        { m with membership := .online, evicted := false }).answer p e st d)
  | sweeps (c : Instr) (s : State) (p : Port) (n : Nat) : s.device = .ready →
      (s.member p).membership = .reclaiming n →
      (c = .reclaimStep p ∨ c = .sweepCompletion p ∧ 4096 ≤ n + 16) → Event c s (s.reclaimSlice p n)
  | queues (c : Instr) (s : State) (p : Port) (v : Word) : s.AcceptsCmd p →
      Event c s (s.updWindow p (·.queued v))
  | captures (s u : State) (p : Port) (v : Word) : Changes s u → Event (.watchsetRead p) s (u.capture p v)
  | clockWork (c : Instr) (s t u : State) : ClockWork s t → Changes t u → Event c s u
  | deviceReset (s : State) : Event .deviceReset s
      { State.reset with
        era := s.era + 1
        windows := s.windows.map Window.afterDeviceReset
        buses := s.buses
        pending := s.pending }

/-- A command once taken from an ONLINE port. -/
theorem commandBody_event {c : Instr} {s : State} {p : Port} {acc : BitVec 6 → Bool} {e : Entry}
    (hc : commandRow c = some (p, acc)) (hj : c ≠ .join p) (el : s.eligible p = true) (hp : Online s p) :
    Event c s (commandBody c e (s.taken p)) := by
  have taken := taken_changes s p
  have hp' := taken.online hp
  have answered : ∀ {t}, Answers p e (s.taken p) t → Event c s t := by
    rintro t ⟨u, st, d, ch, rfl⟩
    exact .answers c s _ p e el ⟨u, st, d, taken.andThen ch, rfl⟩
  cases c <;> simp only [commandRow, Option.some.injEq, Prod.mk.injEq, reduceCtorEq] at hc <;>
    obtain ⟨rfl, rfl⟩ := hc
  case join => exact absurd rfl hj
  case leave =>
    obtain ⟨u, st, d, l, hu⟩ := leaveBody_leaves (e := e) hp'
    simp only [commandBody, hu]
    exact .departsAnswered _ s u _ _ e st d (.inl rfl) el (taken.leaves l)
  case allocate =>
    rcases allocateBody_ends (e := e) hp' with a | ⟨u, k, ch, w⟩
    · exact answered a
    · exact .waits _ s _ _ e el hp ⟨u, k, taken.andThen ch, w⟩
  case evict =>
    rcases evictBody_ends (s := s.taken _) (p := _) (e := e) with a | ⟨x, u, st, d, hx, l, hu⟩
    · exact answered a
    · simp only [commandBody, hu]
      exact .departsAnswered _ s u x _ e st d (.inr (.inr ⟨_, hx.symm, rfl⟩)) el (taken.leaves l)
  case release => exact answered (releaseBody_answers hp')
  case retain => exact answered (retainBody_answers hp')
  case send => exact answered (sendBody_answers hp')
  case take => exact answered (takeBody_answers hp')
  case refuse => exact answered refuseBody_answers
  case describe => exact answered describeBody_answers
  case inspect => exact answered inspectBody_answers
  case watch => exact answered (watchBody_answers hp')
  case unwatch => exact answered unwatchBody_answers
  case cancel => exact answered cancelBody_answers
  case poolstat => exact answered poolstatBody_answers
  case survey => exact answered surveyBody_answers
  case lease => exact answered (leaseBody_answers hp')
  case unlease => exact answered unleaseBody_answers
  case create => exact answered createBody_answers
  case quota => exact answered quotaBody_answers
  case close => exact answered (closeBody_answers hp')
  case recount => exact answered (recountBody_answers hp')
  case retire => exact answered retireBody_answers
  case restore => exact answered restoreBody_answers
  case unknownCommand => exact answered unknownBody_answers

/-- The membership of a port whose command is offered: RECLAIMING ports have none offered (R99). -/
theorem offered_membership {s : State} {p : Port} {e : Entry} (ho : s.offered p = some e) :
    (s.member p).membership = .offline ∨ Online s p := by
  obtain ⟨-, -, h⟩ := (eligible_iff s p).1 (offered_eligible ho)
  rcases hm : (s.member p).membership with _ | _ | n
  · exact .inl rfl
  · exact .inr hm
  · exact absurd hm (h n)

theorem joinBody_event {s : State} {p : Port} {e : Entry} (ho : s.offered p = some e) :
    Event (.join p) s (joinBody p e (s.taken p)) := by
  have el := offered_eligible ho
  rcases offered_membership ho with hm | hm
  · rw [joinBody_offline (s := s.taken p) e hm]
    exact .joins s p e _ _ el hm
  · rw [joinBody_online (s := s.taken p) e hm]
    exact .answers _ s _ p e el ((taken_changes s p).answers p e _ _)

theorem commandRow_event {c : Instr} {s t : State} {p : Port} {acc : BitVec 6 → Bool}
    (hc : commandRow c = some (p, acc)) (hx : exec c s = .next t) : Event c s t := by
  have idle : exec c s = .next s → Event c s t := by
    intro h
    rw [h] at hx
    cases hx
    exact .changes c s s (.refl s)
  rcases ho : s.offered p with _ | e
  · exact idle (exec_commandRow_notOffered hc ho)
  rcases ha : acc e.code with _ | _
  · exact idle (exec_commandRow_otherCode hc ho ha)
  rcases exec_commandRow hc s with ⟨rfl, he⟩ | ⟨hj, he⟩
  · rw [he, takeAny_some ho, if_pos ha] at hx
    cases hx
    exact joinBody_event ho
  · rcases offered_membership ho with hm | hm
    · rw [he, takeCommand_offline ho ha hm] at hx
      cases hx
      exact .answers c s _ p e (offered_eligible ho) ((taken_changes s p).answers p e _ _)
    · rw [he, takeCommand_online ho ha hm] at hx
      cases hx
      exact commandBody_event hc hj (offered_eligible ho) hm

section
variable (c : Instr) (s : State) (p : Port)

theorem writeCmd_event (v : Word) : Event c s (s.writeCmd p v) := by
  by_cases ha : s.AcceptsCmd p
  · rw [writeCmd_accepted ha]; exact .queues c s p v ha
  · rw [writeCmd_refused ha]; exact .changes c s _ (raise_changes s p .overrun)

/-- A window change that neither queues a command nor posts a result. -/
theorem updWindow_event (f : Window → Window)
    (hq : (f (s.window p)).queue.length ≤ (s.window p).queue.length)
    (hr : (f (s.window p)).results.length ≤ (s.window p).results.length)
    (hv : (f (s.window p)).reserved = (s.window p).reserved) : Event c s (s.updWindow p f) :=
  .changes c s _ (Change.window s p f hq hr hv).changes

theorem writeAttn_event (v : Word) : Event c s (s.writeAttn p v) := updWindow_event c s p _ le_rfl le_rfl rfl
theorem writeAttnen_event (v : Word) : Event c s (s.writeAttnen p v) := updWindow_event c s p _ le_rfl le_rfl rfl
theorem writeRespop_event : Event c s (s.writeRespop p) := updWindow_event c s p _ le_rfl (by simp) rfl

theorem windowWrite_event (off : BitVec 4) (v : Word) : Event c s (s.windowWrite p off v) := by
  rw [State.windowWrite]
  split
  · exact writeAttn_event c s p v
  split
  · exact writeAttnen_event c s p v
  split
  · exact updWindow_event c s p _ le_rfl le_rfl rfl
  split
  · exact updWindow_event c s p _ le_rfl le_rfl rfl
  split
  · exact updWindow_event c s p _ le_rfl le_rfl rfl
  split
  · exact writeCmd_event c s p v
  split
  · exact writeRespop_event c s p
  · exact .changes c s s (.refl s)

theorem tickLease_changes : Changes s s.tickLease := by
  rw [State.tickLease]
  split
  · exact .refl s
  · next q r hl =>
    split
    · exact (Change.lease s .vacant fun q r hq => by cases hq).changes.andThen (raise_changes _ q .lease)
    · refine (Change.lease s _ fun q' r' hq => ?_).changes
      cases hq
      exact .inr ⟨r, hl⟩

theorem readArrives_event (off : BitVec 4) : Event (.watchsetRead p) s (s.readArrives p off) := by
  rw [State.readArrives]
  refine .captures s _ p _ ?_
  split
  · exact (Change.window s p _ le_rfl le_rfl rfl).changes
  · exact .refl s

end

theorem otherRow_event {c : Instr} {s t : State} (hc : commandRow c = none) (hx : exec c s = .next t) :
    Event c s t := by
  have stays : Event c s s := .changes c s s (.refl s)
  cases c <;> simp only [commandRow, reduceCtorEq] at hc <;> cases hx
  case commandPost.refl p v => split; exacts [stays, writeCmd_event _ s p v]
  case attnWrite.refl p v => split; exacts [stays, writeAttn_event _ s p v]
  case attnenWrite.refl p v => split; exacts [stays, writeAttnen_event _ s p v]
  case respop.refl p v => split; exacts [stays, writeRespop_event _ s p]
  case watchsetRead.refl p => exact readArrives_event s p _
  case registerWrite.refl p off v =>
    rw [State.writeArrives]
    split; exacts [stays, windowWrite_event _ s p off v]
  case portResetWindow.refl p => exact updWindow_event _ s p _ (by simp [Window.cleared]) (by simp [Window.cleared]) rfl
  case portResetMembership.refl p =>
    split
    · next ho => exact .departs _ s _ p (.inr (.inl rfl)) (prologue_leaves ((isOnline_iff s p).1 ho))
    · exact stays
  case portResetRelease.refl p => exact updWindow_event _ s p _ le_rfl le_rfl rfl
  case deviceReset.refl => exact .deviceReset s
  case deviceResetRelease.refl => exact .clockWork _ s _ _ (.inl rfl) (.refl _)
  case initializationWrite.refl =>
    split
    · next n hn => split; exacts [stays, .clockWork _ s _ _ (.inr (.inr ⟨n, hn, rfl⟩)) (.refl _)]
    · exact stays
  case deviceReady.refl =>
    split
    · next n hn => split; exacts [stays, .clockWork _ s _ _ (.inr (.inr ⟨n, hn, rfl⟩)) (.refl _)]
    · exact stays
  case millisecondTick.refl =>
    split; exacts [stays, .clockWork _ s _ _ (.inr (.inl rfl)) (tickLease_changes _)]
  case leaseExpiry.refl =>
    split; exacts [stays, .clockWork _ s _ _ (.inr (.inl rfl)) (tickLease_changes _)]
  case reclaimStep.refl p =>
    split
    · next n hd hn => exact .sweeps _ s p n hd hn (.inl rfl)
    all_goals exact stays
  case sweepCompletion.refl p =>
    split
    · next n hd hn =>
      split
      · exact stays
      · exact .sweeps _ s p n hd hn (.inr ⟨rfl, by omega⟩)
    all_goals exact stays
  case recountStep.refl k =>
    split
    · exact .changes _ s _ (recountSlice_changes s k _)
    all_goals exact stays
  case recountCompletion.refl k =>
    split
    · split
      · exact .changes _ s _ (recountSlice_changes s k _)
      · exact stays
    all_goals exact stays
  case grant.refl h =>
    split
    · split
      · exact .changes _ s _ (dispose_changes s h.val)
      · exact stays
    all_goals exact stays
  case watchFire.refl k p => exact .changes _ s _ (testWatch_changes s k p)
  case drainCompletion.refl k => exact .changes _ s _ (drainTest_changes s k)

/-- Every event comes down to one of the cases of `Event`. -/
theorem exec_event {c : Instr} {s t : State} (hx : exec c s = .next t) : Event c s t := by
  rcases hc : commandRow c with _ | ⟨p, acc⟩
  · exact otherRow_event hc hx
  · exact commandRow_event hc hx

end Sys2Proof.Machine
end

section
/-! PROOFS. What every event keeps: the queue of waiting events, the moves of membership (R116), the canonical form of
the handle table, the capacities (R50, R66, R98, R102, R105) and the rule that only ONLINE ports are served (R66,
R117, R135). Each is shown for the elementary changes and for the few changes an event has of its own. -/

namespace Sys2Proof.Machine

/-! ### The device, the waiting events and the memberships -/

theorem departFrom_sameDevice (s : State) (x : Port) : SameDevice s (s.departFrom x) := SameDevice.refl s

theorem departFrom_member (s : State) (x q : Port) : (s.departFrom x).member q
    = if q = x then { s.member x with membership := .reclaiming 0 } else s.member q :=
  updMember_member s x q fun m => { m with membership := .reclaiming 0 }

theorem Leaves.sameDevice {x : Port} {s t : State} (l : Leaves x s t) : SameDevice s t := by
  obtain ⟨a, before, -, after, -⟩ := l
  exact (before.staysPut.1.trans (departFrom_sameDevice a x)).trans after.staysPut.1

theorem Leaves.membership {x : Port} {s t : State} (l : Leaves x s t) (q : Port) : (t.member q).membership
    = if q = x then .reclaiming 0 else (s.member q).membership := by
  obtain ⟨a, before, -, after, -⟩ := l
  rw [after.staysPut.2, departFrom_member]
  split
  · rfl
  · exact before.staysPut.2 q

theorem Leaves.online {x : Port} {s t : State} (l : Leaves x s t) : (s.member x).membership = .online := by
  obtain ⟨a, before, online, -⟩ := l
  exact (before.staysPut.2 x).symm.trans online

theorem reclaimSlice_sameDevice (s : State) (p : Port) (n : Nat) : SameDevice s (s.reclaimSlice p n) :=
  (sweepAll_changes p _ s).staysPut.1

theorem ClockWork.pending {s t : State} (w : ClockWork s t) : t.pending = s.pending := by
  rcases w with rfl | rfl | ⟨n, -, rfl⟩ <;> rfl

theorem ClockWork.members {s t : State} (w : ClockWork s t) : t.members = s.members := by
  rcases w with rfl | rfl | ⟨n, -, rfl⟩ <;> rfl

theorem Event.pending {c : Instr} {s t : State} (ev : Event c s t) : t.pending = s.pending := by
  have kept : ∀ {s t : State}, SameDevice s t → t.pending = s.pending := fun h => h.2.2.2.2.2
  cases ev with
  | changes _ _ _ ch => exact kept ch.staysPut.1
  | answers _ _ _ _ _ _ a => obtain ⟨u, st, d, ch, rfl⟩ := a; exact kept ch.staysPut.1
  | waits _ _ _ _ _ _ _ w => obtain ⟨u, k, ch, -, -, rfl⟩ := w; exact kept ch.staysPut.1
  | departs _ _ _ _ _ l => exact kept l.sameDevice
  | departsAnswered _ _ _ _ _ _ _ _ _ _ l => exact kept l.sameDevice
  | joins => rfl
  | sweeps => exact kept (reclaimSlice_sameDevice s _ _)
  | queues => rfl
  | captures _ _ _ _ ch => exact (kept ch.staysPut.1 :)
  | clockWork _ _ _ _ w ch => exact (kept ch.staysPut.1).trans w.pending
  | deviceReset => rfl

theorem exec_answers_next (c : Instr) (s : State) : ∃ t, exec c s = .next t := by
  cases c <;> exact ⟨_, rfl⟩

/-- Settles O2: no row answers a fault or a refusal, and none touches the queue. -/
theorem everyEventHasANextState : Obligations.EveryEventHasANextState := by
  intro c s
  obtain ⟨t, ht⟩ := exec_answers_next c s
  exact ⟨t, ht, (exec_event ht).pending⟩

theorem reclaimSlice_membership (s : State) (p q : Port) (n : Nat) :
    ((s.reclaimSlice p n).member q).membership
      = if q = p then (if n + 16 < 4096 then .reclaiming (n + 16) else .offline)
        else (s.member q).membership := by
  rw [State.reclaimSlice, updMember_member]
  split
  · rfl
  · exact sweepAll_membership s p _ q

/-- Settles O11, by the cases of `Event`: of a membership only a JOIN, a departure, a sweep and a device reset
dispose. -/
theorem membershipMovesAsListed : Obligations.MembershipMovesAsListed := by
  intro c s t q hx
  have out : ∀ {x u}, TakesOut c x → Leaves x s u → ((u.member q).membership = (s.member q).membership
      ∨ (s.member q).membership = .online ∧ (u.member q).membership = .reclaiming 0
        ∧ (c = .leave q ∨ c = .portResetMembership q ∨ ∃ p, p ≠ q ∧ c = .evict p)) := by
    intro x u hc l
    rw [l.membership]
    split
    · next hq => subst hq; exact .inr ⟨l.online, rfl, hc⟩
    · exact .inl rfl
  cases exec_event hx with
  | changes _ _ _ ch => exact .inl (ch.staysPut.2 q)
  | answers _ _ _ _ _ _ a => obtain ⟨u, st, d, ch, rfl⟩ := a; exact .inl (ch.staysPut.2 q)
  | waits _ _ _ _ _ _ _ w => obtain ⟨u, k, ch, -, -, rfl⟩ := w; exact .inl (ch.staysPut.2 q)
  | departs _ _ _ x hc l => exact (out hc l).imp_right fun h => .inr (.inr (.inl h))
  | departsAnswered _ _ _ x _ _ _ _ hc _ l => exact (out hc l).imp_right fun h => .inr (.inr (.inl h))
  | joins _ p e st d el hm =>
    rw [answer_member, updMember_member]
    split
    · next hq => subst hq; exact .inr (.inr (.inl ⟨hm, rfl, rfl⟩))
    · exact .inl rfl
  | sweeps _ _ p n hd hn hc =>
    rw [reclaimSlice_membership]
    by_cases hq : q = p
    · subst hq
      refine .inr (.inr (.inr (.inr ⟨n, hn, ?_⟩)))
      by_cases hl : n + 16 < 4096
      · refine .inl ⟨hl, by rw [if_pos rfl, if_pos hl], hc.resolve_right fun h => by omega⟩
      · exact .inr ⟨by omega, by rw [if_pos rfl, if_neg hl], hc.imp_right And.left⟩
    · rw [if_neg hq]; exact .inl rfl
  | queues => exact .inl rfl
  | captures _ _ _ _ ch => exact .inl (ch.staysPut.2 q)
  | clockWork _ _ _ _ w ch =>
    refine .inl ((ch.staysPut.2 q).trans ?_)
    simp only [State.member, w.members]
  | deviceReset => exact .inr (.inl ⟨rfl, by simp [State.member, State.reset, Member.reset]⟩)

/-! ### The handle table -/

theorem Change.handles {s t : State} (c : Change s t) (hs : Table.wf s.handles = true) :
    Table.wf t.handles = true := by
  cases c with
  | write h r _ => exact Table.wf_put h _ hs
  | close k => simpa using hs
  | grant k h g w rest _ => exact Table.wf_put h ((HandleRec.blank (.inUse k) g).setHold w.port 1) hs
  | _ => exact hs

theorem Changes.handles {s t : State} (c : Changes s t) (hs : TableInv s) : TableInv t :=
  c.keep (P := TableInv) (fun _ _ d => d.handles) hs

theorem ClockWork.handles {s t : State} (w : ClockWork s t) (hs : TableInv s) : TableInv t := by
  rcases w with rfl | rfl | ⟨n, -, rfl⟩
  · exact hs
  · exact hs
  · exact Table.wf_put n .initial hs

theorem Leaves.handles {x : Port} {s t : State} (l : Leaves x s t) (hs : TableInv s) : TableInv t := by
  obtain ⟨a, before, -, after, -⟩ := l
  exact after.handles (before.handles hs)

theorem Event.handles {c : Instr} {s t : State} (ev : Event c s t) (hs : TableInv s) : TableInv t := by
  cases ev with
  | changes _ _ _ ch => exact ch.handles hs
  | answers _ _ _ _ _ _ a => obtain ⟨u, st, d, ch, rfl⟩ := a; exact ch.handles hs
  | waits _ _ _ _ _ _ _ w => obtain ⟨u, k, ch, -, -, rfl⟩ := w; exact ch.handles hs
  | departs _ _ _ _ _ l => exact l.handles hs
  | departsAnswered _ _ _ _ _ _ _ _ _ _ l => exact l.handles hs
  | joins => exact hs
  | sweeps => exact (sweepAll_changes _ _ s).handles hs
  | queues => exact hs
  | captures _ _ _ _ ch => exact ch.handles hs
  | clockWork _ _ _ _ w ch => exact ch.handles (w.handles hs)
  | deviceReset => exact Table.wf_nil

/-- A step keeps what every event keeps, where it does not speak of the waiting events. -/
theorem step_keeps {P : State → Prop} (pend : ∀ s q, P s → P { s with pending := q })
    (ev : ∀ c s t, Event c s t → P s → P t) {s t : State} (hs : P s) (ht : step s = .next t) : P t := by
  rw [step] at ht
  split at ht
  · cases ht; exact hs
  · exact ev _ _ _ (exec_event ht) (pend s _ hs)

/-- Settles O54: every write goes through `Table.put`, which keeps the form. -/
theorem tableStaysCanonical : Obligations.TableStaysCanonical :=
  fun _ _ hs ht => step_keeps (P := TableInv) (fun _ _ h => h) (fun _ _ _ ev => ev.handles) hs ht

end Sys2Proof.Machine
end

section
/-! PROOFS. The capacities (R17, R50, R66, R98, R102, R105), and the rule that the part keeps something for an ONLINE
port only (R66, R117, R135): each elementary change keeps them, and so does what an event adds of its own. -/

namespace Sys2Proof.Machine

/-! ### Counting wait-list entries -/

/-- The entries of a port in a pool's wait list. -/
def PoolRec.waiters (q : PoolRec) (p : Port) : Nat := q.waitList.countP fun w => decide (w.port = p)

theorem waitCount_eq_sum (s : State) (p : Port) : s.waitCount p = ∑ k : PoolId, (s.pool k).waiters p := by
  rw [Fin.sum_univ_def]
  rfl

theorem waitCount_congr {s t : State} {p : Port} (h : ∀ k, (t.pool k).waiters p = (s.pool k).waiters p) :
    t.waitCount p = s.waitCount p := by
  rw [waitCount_eq_sum, waitCount_eq_sum]
  exact Finset.sum_congr rfl fun k _ => h k

theorem waiters_le_waitCount (s : State) (k : PoolId) (p : Port) : (s.pool k).waiters p ≤ s.waitCount p := by
  rw [waitCount_eq_sum]
  exact Finset.single_le_sum (f := fun k => (s.pool k).waiters p) (fun _ _ => Nat.zero_le _) (Finset.mem_univ k)

/-- Where one pool record changes, the count changes by that pool's entries. -/
theorem waitCount_of_pool {s t : State} (k : PoolId) (p : Port) (h : ∀ j, j ≠ k → t.pool j = s.pool j) :
    t.waitCount p + (s.pool k).waiters p = s.waitCount p + (t.pool k).waiters p := by
  rw [waitCount_eq_sum, waitCount_eq_sum, ← Finset.add_sum_erase _ _ (Finset.mem_univ k),
    ← Finset.add_sum_erase (s := Finset.univ) (f := fun j => (s.pool j).waiters p) (Finset.mem_univ k)]
  have rest : ∑ j ∈ Finset.univ.erase k, (t.pool j).waiters p = ∑ j ∈ Finset.univ.erase k, (s.pool j).waiters p :=
    Finset.sum_congr rfl fun j hj => by rw [h j (Finset.ne_of_mem_erase hj)]
  rw [rest]
  omega

theorem waitCount_updPool (s : State) (k : PoolId) (f : PoolRec → PoolRec) (p : Port) :
    (s.updPool k f).waitCount p + (s.pool k).waiters p = s.waitCount p + (f (s.pool k)).waiters p := by
  have h := waitCount_of_pool (s := s) (t := s.updPool k f) k p fun j hj => updPool_pool_ne s f hj
  rwa [updPool_pool_self] at h

theorem waitCount_updPool_same {s : State} {k : PoolId} {f : PoolRec → PoolRec} {p : Port}
    (h : (f (s.pool k)).waiters p = (s.pool k).waiters p) : (s.updPool k f).waitCount p = s.waitCount p := by
  have := waitCount_updPool s k f p
  omega

theorem waiters_pos {q : PoolRec} {w : WaitEntry} (h : w ∈ q.waitList) : 0 < q.waiters w.port :=
  List.countP_pos_iff.2 ⟨w, h, by simp⟩

theorem waiters_eq_zero {q : PoolRec} {p : Port} : q.waiters p = 0 ↔ ∀ w ∈ q.waitList, w.port ≠ p := by
  simp [PoolRec.waiters, List.countP_eq_zero]

/-- The wait list without the entries of one port. -/
theorem waiters_without (q : PoolRec) (p x : Port) :
    PoolRec.waiters { q with waitList := q.waitList.filter fun v => decide (v.port ≠ p) } x
      = if x = p then 0 else q.waiters x := by
  split
  · next hx =>
    subst hx
    exact waiters_eq_zero.2 fun w hw => by simpa using (List.mem_filter.1 hw).2
  · next hx =>
    rw [PoolRec.waiters, List.countP_filter, PoolRec.waiters]
    refine List.countP_congr fun v _ => ?_
    simp only [Bool.and_eq_true, decide_eq_true_eq]
    exact ⟨And.left, fun hv => ⟨hv, hv ▸ hx⟩⟩

theorem forget_waiters (q : PoolRec) (p x : Port) :
    (q.forget p).waiters x = if x = p then 0 else q.waiters x :=
  waiters_without q p x

/-- The entry that stands for a port is in the wait list of its pool. -/
theorem waitEntryOf_mem {s : State} {p : Port} {k : PoolId} {w : WaitEntry}
    (h : s.waitEntryOf p = some (k, w)) : w ∈ (s.pool k).waitList := by
  obtain ⟨j, -, hj⟩ := List.exists_of_findSome?_eq_some h
  obtain ⟨v, hv, heq⟩ := Option.map_eq_some_iff.1 hj
  cases heq
  exact List.mem_of_find?_eq_some hv

theorem waitCount_of_no_entry {s : State} {p : Port} (h : s.waitEntryOf p = none) : s.waitCount p = 0 := by
  rw [waitCount_eq_sum]
  refine Finset.sum_eq_zero fun k _ => waiters_eq_zero.2 fun w hw => ?_
  have none_here := List.findSome?_eq_none_iff.1 h k (allPools_mem k)
  simpa using List.find?_eq_none.1 (Option.map_eq_none_iff.1 none_here) w hw

/-! ### The capacities -/

/-- The results of a port and its reserved slot, which share the FIFO (R102). -/
def State.load (s : State) (p : Port) : Nat := (s.window p).results.length + (s.window p).reserved

/-- What one port's part of the capacities says. -/
structure FitsAt (s : State) (p : Port) : Prop where
  queue : (s.window p).queue.length ≤ 4
  load : s.load p ≤ 8
  inbound : (s.member p).inbound.size ≤ 32
  slot : (s.window p).reserved = s.waitCount p
  once : s.waitCount p ≤ 1

theorem capacityInv_iff (s : State) : CapacityInv s ↔
    (∀ p, FitsAt s p) ∧ (∀ k, (s.pool k).state ≠ .active → (s.pool k).waitList = []) ∧ s.faultCount ≤ 255 := by
  refine and_congr_left' (forall_congr' fun p => ?_)
  exact ⟨fun ⟨h1, h2, h3, h4, h5⟩ => ⟨h1, h2, h3, h4, h5⟩, fun ⟨h1, h2, h3, h4, h5⟩ => ⟨h1, h2, h3, h4, h5⟩⟩

/-- A port fits as before where none of its queues has grown and its reservation stands. -/
theorem FitsAt.mono {s t : State} {p : Port} (h : FitsAt s p)
    (hq : (t.window p).queue.length ≤ (s.window p).queue.length)
    (hr : (t.window p).results.length ≤ (s.window p).results.length)
    (hv : (t.window p).reserved = (s.window p).reserved) (hi : (t.member p).inbound.size ≤ (s.member p).inbound.size)
    (hw : t.waitCount p = s.waitCount p) : FitsAt t p := by
  obtain ⟨h1, h2, h3, h4, h5⟩ := h
  unfold State.load at h2
  exact ⟨by omega, by unfold State.load; omega, by omega, by omega, by omega⟩

/-- A port whose window and entries stand, and whose inbound queue has not grown. -/
theorem FitsAt.quiet {s t : State} {p : Port} (h : FitsAt s p) (hw : t.window p = s.window p)
    (hi : (t.member p).inbound.size ≤ (s.member p).inbound.size) (hc : t.waitCount p = s.waitCount p) :
    FitsAt t p ∧ t.load p ≤ s.load p := by
  have load : t.load p = s.load p := by rw [State.load, hw, State.load]
  exact ⟨h.mono (by rw [hw]) (by rw [hw]) (by rw [hw]) hi hc, load.le⟩

/-- A port that had an entry, which is gone, its reserved slot filled by the deferred result (R52). -/
theorem FitsAt.served {s t : State} {p : Port} (h : FitsAt s p) (hw : 0 < s.waitCount p)
    (ht : t.waitCount p = 0) {v : WaitEntry} {st : Status} {d : Data}
    (he : t.window p = (s.window p).deferred v st d) (hm : t.member p = s.member p) :
    FitsAt t p ∧ t.load p ≤ s.load p := by
  obtain ⟨h1, h2, h3, h4, h5⟩ := h
  have load : t.load p ≤ s.load p := by
    unfold State.load
    rw [he]
    simp only [Window.deferred, List.length_append, List.length_singleton]
    omega
  refine ⟨⟨by rw [he]; exact h1, load.trans h2, by rw [hm]; exact h3, ?_, by omega⟩, load⟩
  rw [he, ht]
  rfl

/-- The capacities of the pools and of the fault count. -/
def PoolsFit (s : State) : Prop := ∀ k, (s.pool k).state ≠ .active → (s.pool k).waitList = []

theorem poolsFit_updPool {s : State} {k : PoolId} {f : PoolRec → PoolRec} (h : PoolsFit s)
    (hf : (f (s.pool k)).state ≠ .active → (f (s.pool k)).waitList = []) : PoolsFit (s.updPool k f) := by
  intro j hj
  rw [updPool_pool] at hj ⊢
  split at hj
  · next e => rw [if_pos e]; exact hf hj
  · next e => rw [if_neg e]; exact h j hj

theorem PoolRec.KeepsNothing.waiters {q : PoolRec} (h : q.KeepsNothing) (p : Port) : q.waiters p = 0 := by
  rw [PoolRec.waiters, h.waitList]; rfl

theorem waiters_of_waitList {q q' : PoolRec} (h : q'.waitList = q.waitList) (p : Port) :
    q'.waiters p = q.waiters p := by
  rw [PoolRec.waiters, h, PoolRec.waiters]

/-! ### The turning away of all waiters (R37) -/

/-- The windows after every waiter of a list has been answered, port by port. -/
theorem turnAwayAll_window (s : State) (ws : List WaitEntry) (x : Port) :
    (s.turnAwayAll ws).window x = (ws.filter fun v => decide (v.port = x)).foldl
      (fun w v => w.deferred v .poolDraining {}) (s.window x) := by
  induction ws generalizing s with
  | nil => rfl
  | cons w ws ih =>
    rw [State.turnAwayAll, ih]
    by_cases hx : w.port = x
    · subst hx; simp
    · simp [hx, postDeferred_window_ne s w _ _ (Ne.symm hx)]

theorem close_waitCount (s : State) (k : PoolId) (ws : List WaitEntry) (p : Port) :
    ((s.turnAwayAll ws).updPool k PoolRec.closing).waitCount p + (s.pool k).waiters p = s.waitCount p := by
  have same : ∀ j, (s.turnAwayAll ws).pool j = s.pool j := fun j => by rw [State.pool, turnAwayAll_pools, ← State.pool]
  have h := waitCount_updPool (s.turnAwayAll ws) k PoolRec.closing p
  have all : (s.turnAwayAll ws).waitCount p = s.waitCount p := waitCount_congr fun j => by rw [same j]
  have gone : (s.pool k).closing.waiters p = 0 := by simp [PoolRec.closing, PoolRec.waiters]
  rw [same, all, gone, Nat.add_zero] at h
  exact h

/-- Each port has at most one entry, so CLOSE answers each waiter once (R50). -/
theorem close_fits {s : State} (k : PoolId) {p : Port} (h : FitsAt s p) :
    FitsAt ((s.turnAwayAll (s.pool k).waitList).updPool k PoolRec.closing) p
      ∧ State.load ((s.turnAwayAll (s.pool k).waitList).updPool k PoolRec.closing) p ≤ s.load p := by
  have count := close_waitCount s k (s.pool k).waitList p
  have window := turnAwayAll_window s (s.pool k).waitList p
  have hle := (waiters_le_waitCount s k p).trans h.once
  rw [PoolRec.waiters, List.countP_eq_length_filter] at count hle
  rcases hf : (s.pool k).waitList.filter fun v => decide (v.port = p) with _ | ⟨v, _ | ⟨v', rest⟩⟩
  · rw [hf] at window count
    have same : ((s.turnAwayAll (s.pool k).waitList).updPool k PoolRec.closing).window p = s.window p := window
    exact h.quiet same (by simp) (by simpa using count)
  · rw [hf] at window count
    have one : 0 < s.waitCount p := by simp at count; omega
    exact h.served one (by have := h.once; simp at count; omega) (v := v) (st := .poolDraining) (d := {}) window
      (by simp)
  · rw [hf] at hle
    simp at hle

/-! ### A grant (R53) -/

section
variable (s : State) (k : PoolId) (h : HandleNo) (g : BitVec 4) (w : WaitEntry) (rest : List WaitEntry)

theorem grantTo_pool_self : (s.grantTo k h g w rest).pool k
    = { (s.pool k).adjustCharge h w.port (· + 1) with waitList := rest } := by
  simp [State.grantTo]

theorem grantTo_pool_ne {j : PoolId} (hj : j ≠ k) : (s.grantTo k h g w rest).pool j = s.pool j := by
  simp [State.grantTo, updPool_pool_ne _ _ hj, raiseCharge_pool_ne _ _ _ hj]

theorem grantTo_window_self : (s.grantTo k h g w rest).window w.port
    = (s.window w.port).deferred w .ok { res1 := mkToken g h } := by
  simp [State.grantTo]

theorem grantTo_window_ne {q : Port} (hq : q ≠ w.port) : (s.grantTo k h g w rest).window q = s.window q := by
  simp [State.grantTo, postDeferred_window_ne _ _ _ _ hq]

/-- The oldest entry leaves the count of its port. -/
theorem grantTo_waitCount (hw : (s.pool k).waitList = w :: rest) (p : Port) :
    (s.grantTo k h g w rest).waitCount p + (if w.port = p then 1 else 0) = s.waitCount p := by
  have count := waitCount_of_pool (s := s) (t := s.grantTo k h g w rest) k p fun j hj =>
    grantTo_pool_ne s k h g w rest hj
  rw [grantTo_pool_self] at count
  simp only [PoolRec.waiters, hw, List.countP_cons, decide_eq_true_eq] at count
  omega

end

/-! ### The elementary changes keep the capacities -/

theorem without_size_le (m : Member) (h : HandleNo) : (m.inbound.without h).size ≤ m.inbound.size :=
  Inbound.size_without _ _

theorem join_size (q : Inbound) (d : Delivery) (c : DeliveryClass) : (q.join d c).size = q.size + 1 := by
  cases c <;> simp [Inbound.join, Inbound.size] <;> omega

/-- What an elementary change does to one port's queues. -/
theorem Change.fitsAt {s t : State} (c : Change s t) (hp : PoolsFit s) {p : Port} (h : FitsAt s p) :
    FitsAt t p ∧ t.load p ≤ s.load p := by
  have quiet : ∀ {t : State}, t.windows = s.windows → (t.member p).inbound.size ≤ (s.member p).inbound.size →
      t.waitCount p = s.waitCount p → FitsAt t p ∧ t.load p ≤ s.load p := by
    exact fun hw hi hc => h.quiet (by simp only [State.window, hw]) hi hc
  cases c with
  | window q f hq hr hv =>
    have windows := updWindow_window s q p f
    split at windows
    · next e =>
      subst e
      refine ⟨h.mono (by rw [windows]; exact hq) (by rw [windows]; exact hr) (by rw [windows]; exact hv) le_rfl
        (waitCount_congr fun _ => rfl), ?_⟩
      rw [State.load, windows, State.load]
      omega
    · exact h.quiet windows le_rfl (waitCount_congr fun _ => rfl)
  | pool k f hf => exact quiet rfl le_rfl (waitCount_updPool_same (waiters_of_waitList hf.waitList p))
  | renew k q ha hq =>
    refine quiet rfl le_rfl (waitCount_updPool_same ?_)
    rw [hq.waiters, PoolRec.waiters, hp k ha, List.countP_nil]
  | close k => exact close_fits k h
  | grant k j g w rest hw =>
    have count := grantTo_waitCount s k j g w rest hw p
    by_cases e : w.port = p
    · subst e
      have once := h.once
      rw [if_pos rfl] at count
      exact h.served (by omega) (by omega) (grantTo_window_self s k j g w rest) (by simp)
    · rw [if_neg e, Nat.add_zero] at count
      exact h.quiet (grantTo_window_ne s k j g w rest (Ne.symm e)) (by simp) count
  | cancel q k w hw =>
    obtain rfl := waitEntryOf_port hw
    have count := waitCount_updPool s k
      (fun q => { q with waitList := q.waitList.filter fun v => decide (v.port ≠ w.port) }) p
    rw [waiters_without] at count
    by_cases e : p = w.port
    · subst e
      have pos := waiters_pos (waitEntryOf_mem hw)
      have le := waiters_le_waitCount s k w.port
      have once := h.once
      rw [if_pos rfl] at count
      have gone : (s.updPool k fun q =>
        { q with waitList := q.waitList.filter fun v => decide (v.port ≠ w.port) }).waitCount w.port = 0 := by omega
      exact h.served (by omega) gone (postDeferred_window_self _ w _ _) rfl
    · rw [if_neg e] at count
      exact h.quiet (postDeferred_window_ne _ w _ _ e) le_rfl (Nat.add_right_cancel count)
  | removeDeliveries j =>
    refine quiet rfl ?_ (waitCount_congr fun _ => rfl)
    rw [removeDeliveries_member]
    exact without_size_le _ j
  | popDelivery q => exact quiet rfl (popDelivery_size_le s q p) (waitCount_congr fun _ => rfl)
  | addDelivery q d c _ room =>
    refine ⟨⟨h.queue, h.load, ?_, h.slot, h.once⟩, le_rfl⟩
    by_cases e : p = q
    · subst e; rw [addDelivery_member_self]; dsimp only; rw [join_size]; omega
    · rw [addDelivery_member_ne _ _ _ e]; exact h.inbound
  | evicted q =>
    refine quiet rfl (le_of_eq ?_) (waitCount_congr fun _ => rfl)
    rw [updMember_member]
    split
    · next e => subst e; rfl
    · rfl
  | _ => exact quiet rfl le_rfl (waitCount_congr fun _ => rfl)

theorem Change.poolsFit {s t : State} (c : Change s t) (h : PoolsFit s) : PoolsFit t := by
  cases c with
  | pool k f hf => exact poolsFit_updPool h fun ha => by rw [hf.waitList]; exact h k (by rwa [hf.state] at ha)
  | renew k q _ hq => exact poolsFit_updPool h fun _ => hq.waitList
  | close k =>
    refine poolsFit_updPool (s := s.turnAwayAll (s.pool k).waitList) (fun j hj => ?_) fun _ => rfl
    rw [State.pool, turnAwayAll_pools] at hj ⊢
    exact h j hj
  | grant k j g w rest hw =>
    intro i hi
    by_cases hik : i = k
    · subst hik
      rw [grantTo_pool_self] at hi
      exact absurd (hw.symm.trans (h i hi)) (List.cons_ne_nil _ _)
    · rw [grantTo_pool_ne s k j g w rest hik] at hi ⊢
      exact h i hi
  | cancel p k w hw =>
    exact poolsFit_updPool (k := k) (f := fun q =>
      { q with waitList := q.waitList.filter fun v => decide (v.port ≠ p) }) h fun ha => by rw [h k ha]; rfl
  | _ => exact h

theorem Change.faultCount_le {s t : State} (c : Change s t) (h : s.faultCount ≤ 255) : t.faultCount ≤ 255 := by
  cases c with
  | countFault => exact min_le_left _ _
  | close k => simpa using h
  | grant => simpa using h
  | _ => exact h

/-- A sequence of elementary changes keeps the capacities, and no port's results and reservation grow. -/
theorem Changes.capacity {s t : State} (c : Changes s t) (h : CapacityInv s) :
    CapacityInv t ∧ ∀ p, t.load p ≤ s.load p := by
  refine c.keep (P := fun t => CapacityInv t ∧ ∀ p, t.load p ≤ s.load p) (fun a b d ⟨ha, hl⟩ => ?_)
    ⟨h, fun _ => le_rfl⟩
  obtain ⟨fits, pools, faults⟩ := (capacityInv_iff a).1 ha
  exact ⟨(capacityInv_iff b).2 ⟨fun p => (d.fitsAt pools (fits p)).1, d.poolsFit pools, d.faultCount_le faults⟩,
    fun p => (d.fitsAt pools (fits p)).2.trans (hl p)⟩

/-! ### The events keep the capacities -/

theorem load_of_eligible {s : State} {p : Port} (h : s.eligible p = true) : s.load p < 8 :=
  ((eligible_iff s p).1 h).2.1

/-- A port with room for one more result is answered (R99, R102). -/
theorem answer_capacity {s : State} {p : Port} (h : CapacityInv s) (room : s.load p < 8) (e : Entry) (st : Status)
    (d : Data) : CapacityInv (s.answer p e st d) := by
  obtain ⟨fits, pools, faults⟩ := (capacityInv_iff s).1 h
  refine (capacityInv_iff _).2 ⟨fun q => ?_, pools, faults⟩
  by_cases hq : q = p
  · subst hq
    obtain ⟨h1, -, h3, h4, h5⟩ := fits q
    refine ⟨by rw [answer_window_self]; exact h1, ?_, h3, by rw [answer_window_self]; exact h4, h5⟩
    unfold State.load at room ⊢
    rw [answer_window_self]
    simp only [List.length_append, List.length_singleton]
    omega
  · have same := answer_window_ne s e st d hq
    exact ((fits q).quiet same le_rfl rfl).1

theorem beginWaiting_capacity {s : State} {p : Port} {k : PoolId} (h : CapacityInv s) (room : s.load p < 8)
    (hw : s.waitEntryOf p = none) (ha : (s.pool k).state = .active) (e : Entry) :
    CapacityInv (beginWaiting p k e s) := by
  obtain ⟨fits, pools, faults⟩ := (capacityInv_iff s).1 h
  have none_yet := waitCount_of_no_entry hw
  have count : ∀ q, (beginWaiting p k e s).waitCount q = s.waitCount q + if q = p then 1 else 0 := by
    intro q
    have h := waitCount_updPool s k (fun q => { q with waitList := q.waitList ++ [⟨p, e.tag⟩] }) q
    have grown : PoolRec.waiters { s.pool k with waitList := (s.pool k).waitList ++ [⟨p, e.tag⟩] } q
        = (s.pool k).waiters q + if q = p then 1 else 0 := by
      simp [PoolRec.waiters, List.countP_append, eq_comm]
    rw [grown] at h
    exact Nat.add_right_cancel (h.trans (by omega))
  refine (capacityInv_iff _).2 ⟨fun q => ?_, poolsFit_updPool (k := k)
    (f := fun q => { q with waitList := q.waitList ++ [⟨p, e.tag⟩] }) pools fun hn => absurd ha hn, faults⟩
  by_cases hq : q = p
  · subst hq
    obtain ⟨h1, -, h3, h4, h5⟩ := fits q
    have window : (beginWaiting q k e s).window q = { s.window q with reserved := 1 } := by simp [beginWaiting]
    have counted := count q
    rw [if_pos rfl, none_yet] at counted
    refine ⟨by rw [window]; exact h1, ?_, h3, by rw [window, counted], by omega⟩
    unfold State.load at room ⊢
    rw [window]
    dsimp only
    omega
  · have same : (beginWaiting p k e s).window q = s.window q := updWindow_window_ne _ _ hq
    have counted := count q
    rw [if_neg hq, Nat.add_zero] at counted
    exact ((fits q).quiet same le_rfl counted).1

theorem departFrom_pool (s : State) (x : Port) (k : PoolId) : (s.departFrom x).pool k = (s.pool k).forget x := by
  simp [State.departFrom, State.pool, State.updWindow, State.updMember]

theorem departFrom_window (s : State) (x q : Port) : (s.departFrom x).window q
    = if q = x then { s.window x with reserved := 0 } else s.window q :=
  updWindow_window (s.updMember x fun m => { m with membership := .reclaiming 0 }) x q
    fun w => { w with reserved := 0 }

/-- The departing port's reservation goes with its wait-list entries (R122). -/
theorem departFrom_capacity {s : State} (h : CapacityInv s) (x : Port) :
    CapacityInv (s.departFrom x) ∧ ∀ p, (s.departFrom x).load p ≤ s.load p := by
  obtain ⟨fits, pools, faults⟩ := (capacityInv_iff s).1 h
  have count : ∀ p, (s.departFrom x).waitCount p = if p = x then 0 else s.waitCount p := by
    intro p
    split
    · next hp => rw [waitCount_eq_sum]; simp [departFrom_pool, forget_waiters, hp]
    · next hp => exact waitCount_congr fun k => by rw [departFrom_pool, forget_waiters, if_neg hp]
  refine ⟨(capacityInv_iff _).2 ⟨fun p => ?_, fun k hk => ?_, faults⟩, fun p => ?_⟩
  · by_cases hp : p = x
    · subst hp
      obtain ⟨h1, h2, h3, -, -⟩ := fits p
      have window := departFrom_window s p p
      have counted := count p
      rw [if_pos rfl] at window counted
      refine ⟨by rw [window]; exact h1, ?_, by rw [departFrom_member, if_pos rfl]; exact h3, by rw [window, counted],
        by omega⟩
      unfold State.load at h2 ⊢
      rw [window]
      dsimp only
      omega
    · have window := departFrom_window s x p
      have counted := count p
      rw [if_neg hp] at window counted
      exact ((fits p).quiet window (by rw [departFrom_member, if_neg hp]) counted).1
  · rw [departFrom_pool] at hk ⊢
    simp only [PoolRec.forget] at hk ⊢
    rw [pools k hk]
    rfl
  · unfold State.load
    rw [departFrom_window]
    split
    · next hp => subst hp; dsimp only; omega
    · exact le_rfl

theorem Leaves.capacity {x : Port} {s t : State} (l : Leaves x s t) (h : CapacityInv s) :
    CapacityInv t ∧ ∀ p, t.load p ≤ s.load p := by
  obtain ⟨a, before, -, after, -⟩ := l
  have ha := before.capacity h
  have hd := departFrom_capacity ha.1 x
  have ht := after.capacity hd.1
  exact ⟨ht.1, fun p => ((ht.2 p).trans (hd.2 p)).trans (ha.2 p)⟩

/-- A change of a port record that keeps the size of its inbound queue. -/
theorem updMember_capacity {s : State} (h : CapacityInv s) (p : Port) (f : Member → Member)
    (hf : (f (s.member p)).inbound = (s.member p).inbound) : CapacityInv (s.updMember p f) := by
  obtain ⟨fits, pools, faults⟩ := (capacityInv_iff s).1 h
  refine (capacityInv_iff _).2 ⟨fun q => (fits q).mono le_rfl le_rfl rfl (le_of_eq ?_) rfl, pools, faults⟩
  rw [updMember_member]
  split
  · next hq => subst hq; rw [hf]
  · rfl

theorem queued_capacity {s : State} {p : Port} (h : CapacityInv s) (ha : s.AcceptsCmd p) (v : Word) :
    CapacityInv (s.updWindow p (·.queued v)) := by
  obtain ⟨fits, pools, faults⟩ := (capacityInv_iff s).1 h
  refine (capacityInv_iff _).2 ⟨fun q => ?_, pools, faults⟩
  have window := updWindow_window s p q (·.queued v)
  split at window
  · next hq =>
    subst hq
    obtain ⟨-, h2, h3, h4, h5⟩ := fits q
    have room := ha.2.2
    refine ⟨?_, by rw [State.load, window]; exact h2, h3, by rw [window]; exact h4, h5⟩
    rw [window]
    simp only [Window.queued, List.length_append, List.length_singleton]
    omega
  · exact ((fits q).quiet window le_rfl rfl).1

theorem deviceReset_capacity (s : State) (era : Nat) (buses : Vector BusPhase 4) (pending : List Instr) :
    CapacityInv { State.reset with
      era := era, windows := s.windows.map Window.afterDeviceReset, buses := buses, pending := pending } := by
  refine ⟨fun p => ?_, fun k _ => by simp [State.pool, State.reset, PoolRec.unconfigured], Nat.zero_le _⟩
  have window : (s.windows.map Window.afterDeviceReset)[p] = (s.windows[p]).afterDeviceReset := by simp
  have count : State.waitCount { State.reset with
      era := era, windows := s.windows.map Window.afterDeviceReset, buses := buses, pending := pending } p = 0 := by
    rw [waitCount_eq_sum]
    simp [State.pool, State.reset, PoolRec.unconfigured, PoolRec.waiters]
  rw [count]
  simp [State.window, window, Window.afterDeviceReset, Window.reset, State.member, State.reset, Member.reset,
    Inbound.size]

theorem Event.capacity {c : Instr} {s t : State} (ev : Event c s t) (h : CapacityInv s) : CapacityInv t := by
  cases ev with
  | changes _ _ _ ch => exact (ch.capacity h).1
  | answers _ _ _ p e el a =>
    obtain ⟨u, st, d, ch, rfl⟩ := a
    obtain ⟨hu, load⟩ := ch.capacity h
    exact answer_capacity hu ((load p).trans_lt (load_of_eligible el)) e st d
  | waits _ _ _ p e el _ w =>
    obtain ⟨u, k, ch, hw, ha, rfl⟩ := w
    obtain ⟨hu, load⟩ := ch.capacity h
    exact beginWaiting_capacity hu ((load p).trans_lt (load_of_eligible el)) hw ha e
  | departs _ _ _ _ _ l => exact (l.capacity h).1
  | departsAnswered _ _ _ _ p e st d _ el l =>
    obtain ⟨hu, load⟩ := l.capacity h
    exact answer_capacity hu ((load p).trans_lt (load_of_eligible el)) e st d
  | joins _ p e st d el _ =>
    obtain ⟨hu, load⟩ := (taken_changes s p).capacity h
    refine answer_capacity (updMember_capacity hu p _ rfl) ?_ e st d
    exact (load p).trans_lt (load_of_eligible el)
  | sweeps _ _ p n _ _ _ => exact updMember_capacity ((sweepAll_changes p _ s).capacity h).1 p _ rfl
  | queues _ _ p v ha => exact queued_capacity h ha v
  | captures _ _ _ _ ch => exact (ch.capacity h).1
  | clockWork _ _ _ _ w ch =>
    refine (ch.capacity ?_).1
    rcases w with rfl | rfl | ⟨n, -, rfl⟩ <;> exact h
  | deviceReset => exact deviceReset_capacity s _ _ _

/-- Settles O55: the reserved slot and the wait-list entry of a port come and go together, and an answer needs the
room that made the port eligible. -/
theorem capacitiesAreKept : Obligations.CapacitiesAreKept :=
  fun _ _ hs ht => step_keeps (P := CapacityInv) (fun _ _ h => h) (fun _ _ _ ev => ev.capacity) hs ht

end Sys2Proof.Machine
end

section
/-! PROOFS. The part keeps something for an ONLINE port only (R66, R117, R135). While a port departs, its inbound queue
is the one exception, until the last drop has emptied it (R122, R123). -/

namespace Sys2Proof.Machine

/-! ### What a pool record keeps for a port -/

/-- The pool record keeps nothing for the port: no wait-list entry, no watch, no recorded role. -/
structure PoolRec.NothingFor (q : PoolRec) (p : Port) : Prop where
  waitList : ∀ w ∈ q.waitList, w.port ≠ p
  watch : q.watches[p] = none
  closer : q.closer ≠ some p
  requester : q.requester? ≠ some p

theorem requester?_ne_iff (q : PoolRec) (p : Port) :
    q.requester? ≠ some p ↔ ∀ rc, q.recount = some rc → rc.requester ≠ some p := by
  unfold PoolRec.requester?
  cases q.recount <;> simp

theorem nothingFor_iff (q : PoolRec) (p : Port) : q.NothingFor p ↔
    (∀ w ∈ q.waitList, w.port ≠ p) ∧ q.watches[p] = none ∧ q.closer ≠ some p
      ∧ ∀ rc, q.recount = some rc → rc.requester ≠ some p := by
  rw [← requester?_ne_iff]
  exact ⟨fun ⟨h1, h2, h3, h4⟩ => ⟨h1, h2, h3, h4⟩, fun ⟨h1, h2, h3, h4⟩ => ⟨h1, h2, h3, h4⟩⟩

theorem PoolRec.NothingFor.follows {s : State} {q q' : PoolRec} {p : Port} (h : q.NothingFor p)
    (f : q.Follows s q') (hp : ¬ Online s p) : q'.NothingFor p := by
  refine ⟨by rw [f.waitList]; exact h.waitList, ?_, fun e => ?_, fun e => ?_⟩
  · rcases f.watches p with e | e | e
    · rw [e]; exact h.watch
    · exact e
    · exact absurd e hp
  · rcases f.closer p e with e | e
    · exact h.closer e
    · exact hp e
  · rcases f.requester p e with e | e
    · exact h.requester e
    · exact hp e

theorem PoolRec.KeepsNothing.nothingFor {q : PoolRec} (h : q.KeepsNothing) (p : Port) : q.NothingFor p :=
  ⟨by simp [h.waitList], h.watches p, by simp [h.closer], by simp [PoolRec.requester?, h.recount]⟩

/-- A record whose wait list has only shrunk. -/
theorem PoolRec.NothingFor.shrink {q q' : PoolRec} {p : Port} (h : q.NothingFor p)
    (hw : ∀ w ∈ q'.waitList, w ∈ q.waitList) (h2 : q'.watches = q.watches) (h3 : q'.closer = q.closer)
    (h4 : q'.requester? = q.requester?) : q'.NothingFor p :=
  ⟨fun w hm => h.waitList w (hw w hm), by rw [h2]; exact h.watch, by rw [h3]; exact h.closer,
    by rw [h4]; exact h.requester⟩

theorem PoolRec.NothingFor.closing {q : PoolRec} {p : Port} (h : q.NothingFor p) : q.closing.NothingFor p :=
  ⟨by simp [PoolRec.closing], by simp [PoolRec.closing], by simp [PoolRec.closing], h.requester⟩

/-- What the prologue removes of the departing port itself (R122). -/
theorem forget_nothingFor (q : PoolRec) (p : Port) : (q.forget p).NothingFor p := by
  refine ⟨fun w hw => by simpa using (List.mem_filter.1 hw).2, ?_, ?_, (requester?_ne_iff _ _).2 fun rc hrc => ?_⟩
  · exact (watches_set q p p none).trans (if_pos rfl)
  · simp only [PoolRec.forget]
    split
    · simp
    · assumption
  · simp only [PoolRec.forget, Option.map_eq_some_iff] at hrc
    obtain ⟨rc', -, rfl⟩ := hrc
    dsimp only
    split
    · simp
    · assumption

/-- The prologue gives no other port anything. -/
theorem PoolRec.NothingFor.forget {q : PoolRec} {p : Port} (h : q.NothingFor p) (x : Port) :
    (q.forget x).NothingFor p := by
  refine ⟨fun w hw => h.waitList w (List.mem_of_mem_filter hw), ?_, ?_, (requester?_ne_iff _ _).2 fun rc hrc => ?_⟩
  · refine (watches_set q x p none).trans ?_
    split
    · rfl
    · exact h.watch
  · simp only [PoolRec.forget]
    split
    · simp
    · exact h.closer
  · simp only [PoolRec.forget, Option.map_eq_some_iff] at hrc
    obtain ⟨rc', hrc', rfl⟩ := hrc
    have := (requester?_ne_iff _ _).1 h.requester rc' hrc'
    dsimp only
    split
    · simp
    · exact this

/-! ### Only ONLINE ports are served -/

/-- What is kept for a port that is not ONLINE, its inbound queue apart. -/
structure IdleAt (s : State) (p : Port) : Prop where
  lease : ¬ HoldsLease s p
  pools : ∀ k, (s.pool k).NothingFor p

/-- Nothing is kept for a port that is not ONLINE, but that the inbound queue of a departing port x may still hold
deliveries. -/
def ServesOnline (x : Option Port) (s : State) : Prop :=
  ∀ p, ¬ Online s p → IdleAt s p ∧ (x ≠ some p → (s.member p).inbound = ⟨[], []⟩)

/-- The pools, the port records and the lease are all it speaks of. -/
theorem ServesOnline.congr {s t : State} {x : Option Port} (h : ServesOnline x s) (hp : t.pools = s.pools)
    (hm : t.members = s.members) (hl : t.lease = s.lease) : ServesOnline x t := by
  intro p ho
  have member : t.member p = s.member p := by rw [State.member, hm, State.member]
  obtain ⟨⟨lease, pools⟩, inbound⟩ := h p (by rwa [Online, member] at ho)
  refine ⟨⟨by rwa [HoldsLease, hl], fun k => ?_⟩, by rwa [member]⟩
  rw [State.pool, hp]
  exact pools k

theorem membershipInv_iff (s : State) : MembershipInv s ↔ ServesOnline none s := by
  refine forall_congr' fun p => imp_congr_right fun _ => ?_
  simp only [← nothingFor_iff]
  exact ⟨fun ⟨h1, h2, h3⟩ => ⟨⟨h2, h3⟩, fun _ => h1⟩, fun ⟨⟨h2, h3⟩, h1⟩ => ⟨h1 (by simp), h2, h3⟩⟩

theorem IdleAt.updPool {s : State} {p : Port} (h : IdleAt s p) (k : PoolId) {f : PoolRec → PoolRec}
    (hf : (f (s.pool k)).NothingFor p) : IdleAt (s.updPool k f) p := by
  refine ⟨h.lease, fun j => ?_⟩
  rw [updPool_pool]
  split
  · exact hf
  · exact h.pools j

/-- An elementary change gives a port that is not ONLINE nothing. -/
theorem Change.idleAt {s t : State} (c : Change s t) {p : Port} (hp : ¬ Online s p) (h : IdleAt s p) :
    IdleAt t p := by
  cases c with
  | pool k f hf => exact h.updPool k ((h.pools k).follows hf hp)
  | renew k q _ hq => exact h.updPool k (hq.nothingFor p)
  | close k =>
    have kept : IdleAt (s.turnAwayAll (s.pool k).waitList) p := by
      refine ⟨?_, fun j => ?_⟩
      · simpa [HoldsLease] using h.lease
      · rw [State.pool, turnAwayAll_pools]; exact h.pools j
    exact kept.updPool k ((kept.pools k).closing)
  | grant k j g w rest hw =>
    refine ⟨by simpa [HoldsLease] using h.lease, fun i => ?_⟩
    by_cases hi : i = k
    · subst hi
      rw [grantTo_pool_self]
      exact ((h.pools i).follows (adjustCharge_follows s _ j w.port _) hp).shrink
        (fun v hv => by rw [show ((s.pool i).adjustCharge j w.port (· + 1)).waitList = w :: rest from hw];
                        exact List.mem_cons_of_mem _ hv) rfl rfl rfl
    · rw [grantTo_pool_ne s k j g w rest hi]; exact h.pools i
  | cancel q k w _ =>
    have kept := h.updPool k (f := fun r => { r with waitList := r.waitList.filter fun v => decide (v.port ≠ q) })
      ((h.pools k).shrink (fun v hv => List.mem_of_mem_filter hv) rfl rfl rfl)
    exact ⟨kept.lease, kept.pools⟩
  | lease l hl =>
    refine ⟨fun ⟨r, hr⟩ => ?_, h.pools⟩
    rcases hl p r hr with e | e
    · exact hp e
    · exact h.lease e
  | _ => exact ⟨h.lease, h.pools⟩

/-- An elementary change puts no delivery into the empty inbound queue of a port that is not ONLINE. -/
theorem Change.inbound {s t : State} (c : Change s t) {p : Port} (hp : ¬ Online s p)
    (h : (s.member p).inbound = ⟨[], []⟩) : (t.member p).inbound = ⟨[], []⟩ := by
  cases c with
  | close => simpa using h
  | grant => simpa using h
  | removeDeliveries j => rw [removeDeliveries_member, h]; rfl
  | popDelivery q =>
    by_cases e : p = q
    · subst e; rw [popDelivery_member_self, h]; rfl
    · rw [popDelivery_member_ne _ e]; exact h
  | addDelivery q d c hq _ =>
    rw [addDelivery_member_ne _ _ _ (p := q) (q := p) fun e => hp (e ▸ hq)]
    exact h
  | evicted q =>
    rw [updMember_member]
    split
    · next e => subst e; exact h
    · exact h
  | _ => exact h

theorem Changes.servesOnline {s t : State} {x : Option Port} (c : Changes s t) (h : ServesOnline x s) :
    ServesOnline x t := by
  refine c.keep (P := ServesOnline x) (fun a b d ha p hp => ?_) h
  have hp' : ¬ Online a p := fun e => hp (d.changes.online e)
  obtain ⟨idle, inbound⟩ := ha p hp'
  exact ⟨d.idleAt hp' idle, fun hx => d.inbound hp' (inbound hx)⟩

/-- With the first steps of the prologue only the inbound queue of the departing port is left of it (R122). -/
theorem departFrom_servesOnline {s : State} {x : Port} (h : ServesOnline none s) :
    ServesOnline (some x) (s.departFrom x) := by
  intro p hp
  have lease : HoldsLease (s.departFrom x) p → HoldsLease s p ∧ p ≠ x := by
    rintro ⟨r, hr⟩
    have hr' : (if s.holdsLease x then Lease.vacant else s.lease) = .held p r := hr
    split at hr'
    · cases hr'
    · next hx => exact ⟨⟨r, hr'⟩, fun e => hx (holdsLease_of (e ▸ ⟨r, hr'⟩))⟩
  by_cases e : p = x
  · subst e
    refine ⟨⟨fun hl => (lease hl).2 rfl, fun k => ?_⟩, fun hn => absurd rfl hn⟩
    rw [departFrom_pool]
    exact forget_nothingFor _ p
  · have member : (s.departFrom x).member p = s.member p := by rw [departFrom_member, if_neg e]
    obtain ⟨idle, inbound⟩ := h p (by rwa [Online, member] at hp)
    refine ⟨⟨fun hl => idle.lease (lease hl).1, fun k => ?_⟩, fun _ => by rw [member]; exact inbound (by simp)⟩
    rw [departFrom_pool]
    exact (idle.pools k).forget x

theorem Leaves.servesOnline {x : Port} {s t : State} (l : Leaves x s t) (h : ServesOnline none s) :
    ServesOnline none t := by
  obtain ⟨a, before, -, after, empty⟩ := l
  have departed := after.servesOnline (departFrom_servesOnline (x := x) (before.servesOnline h))
  intro p hp
  obtain ⟨idle, inbound⟩ := departed p hp
  refine ⟨idle, fun _ => ?_⟩
  by_cases e : p = x
  · subst e; exact empty
  · exact inbound fun he => e (Option.some.inj he).symm

/-- A port record that changes, its inbound queue standing and ONLINE wherever it was. -/
theorem updMember_servesOnline {s : State} (h : ServesOnline none s) (p : Port) (f : Member → Member)
    (hi : (f (s.member p)).inbound = (s.member p).inbound)
    (ho : Online s p → (f (s.member p)).membership = .online) : ServesOnline none (s.updMember p f) := by
  intro q hq
  have offline : ¬ Online s q := by
    intro e
    refine hq ?_
    rw [Online, updMember_member]
    split
    · next hqp => exact ho (hqp ▸ e)
    · exact e
  obtain ⟨idle, inbound⟩ := h q offline
  refine ⟨⟨idle.lease, idle.pools⟩, fun hx => ?_⟩
  rw [updMember_member]
  split
  · next hqp => subst hqp; rw [hi]; exact inbound hx
  · exact inbound hx

theorem beginWaiting_servesOnline {s : State} {p : Port} (h : ServesOnline none s) (hp : Online s p) (k : PoolId)
    (e : Entry) : ServesOnline none (beginWaiting p k e s) := by
  intro q hq
  obtain ⟨idle, inbound⟩ := h q hq
  have other : p ≠ q := fun e => hq (e ▸ hp)
  refine ⟨?_, inbound⟩
  have joined := idle.updPool k (f := fun r => { r with waitList := r.waitList ++ [⟨p, e.tag⟩] })
    ⟨fun w hw => ?_, (idle.pools k).watch, (idle.pools k).closer, (idle.pools k).requester⟩
  · exact ⟨joined.lease, joined.pools⟩
  · rcases List.mem_append.1 hw with hw | hw
    · exact (idle.pools k).waitList w hw
    · rw [List.mem_singleton.1 hw]; exact other

theorem Event.servesOnline {c : Instr} {s t : State} (ev : Event c s t) (h : ServesOnline none s) :
    ServesOnline none t := by
  cases ev with
  | changes _ _ _ ch => exact ch.servesOnline h
  | answers _ _ _ _ _ _ a => obtain ⟨u, st, d, ch, rfl⟩ := a; exact (ch.servesOnline h).congr rfl rfl rfl
  | waits _ _ _ p e _ hp w =>
    obtain ⟨u, k, ch, -, -, rfl⟩ := w
    exact beginWaiting_servesOnline (ch.servesOnline h) (ch.online hp) k e
  | departs _ _ _ _ _ l => exact l.servesOnline h
  | departsAnswered _ _ _ _ _ _ _ _ _ _ l => exact (l.servesOnline h).congr rfl rfl rfl
  | joins _ p e st d _ hm =>
    exact (updMember_servesOnline ((taken_changes s p).servesOnline h) p
      (fun m => { m with membership := .online, evicted := false }) rfl fun _ => rfl).congr rfl rfl rfl
  | sweeps _ _ p n _ hn _ =>
    have swept := sweepAll_changes p (List.range' n 16) s
    refine updMember_servesOnline (swept.servesOnline h) p _ rfl fun ho => absurd ((swept.staysPut.2 p).symm.trans ho) ?_
    rw [hn]
    simp
  | queues => exact h.congr rfl rfl rfl
  | captures _ _ _ _ ch => exact (ch.servesOnline h).congr rfl rfl rfl
  | clockWork _ _ _ _ w ch =>
    refine ch.servesOnline ?_
    rcases w with rfl | rfl | ⟨n, -, rfl⟩ <;> exact h.congr rfl rfl rfl
  | deviceReset =>
    intro p _
    have vacant : ¬ HoldsLease { State.reset with
        era := s.era + 1, windows := s.windows.map Window.afterDeviceReset, buses := s.buses
        pending := s.pending } p := by simp [HoldsLease, State.reset]
    refine ⟨⟨vacant, fun k => ?_⟩, fun _ => by simp [State.member, State.reset, Member.reset]⟩
    simpa [State.pool, State.reset] using unconfigured_keepsNothing.nothingFor p

/-- Settles O56: what an event keeps for a port it keeps for an ONLINE one, and a departure leaves nothing. -/
theorem onlyOnlinePortsAreServed : Obligations.OnlyOnlinePortsAreServed := by
  intro s t hs ht
  rw [membershipInv_iff] at hs ⊢
  exact step_keeps (P := ServesOnline none) (fun _ _ h => h.congr rfl rfl rfl) (fun _ _ _ ev => ev.servesOnline) hs ht

end Sys2Proof.Machine
end

section
/-! PROOFS. The blocks around the pool engine: start-up (Chapter 9), the timebase and the lease's tick (R136), the port
reset (R112, R120), and the charges that follow the recount pointer (R89). -/

namespace Sys2Proof.Machine

/-! ### Device reset and initialization (R144, R145) -/

/-- Settles O48: both arrivals write their fields outright. -/
theorem deviceResetReturnsEveryBlock : Obligations.DeviceResetReturnsEveryBlock := by
  refine ⟨fun s => ⟨_, rfl, rfl, rfl, rfl, rfl, rfl, rfl, fun k => ?pool, fun q => ?member, fun q => ?window, rfl,
    rfl⟩, fun s => rfl⟩
  case pool => simp [State.pool, State.reset]
  case member => simp [State.member, State.reset, Member.reset]
  case window => simp [State.window, Window.afterDeviceReset, Window.reset]

/-- The device of an event that is not a device reset: only the initialization controller changes it. -/
theorem Event.device {c : Instr} {s t : State} (ev : Event c s t) (hc : c ≠ .deviceReset)
    (hs : s.device = .ready) : t.device = .ready := by
  have kept : ∀ {t : State}, SameDevice s t → t.device = .ready := fun h => h.1.trans hs
  cases ev with
  | changes _ _ _ ch => exact kept ch.staysPut.1
  | answers _ _ _ _ _ _ a => obtain ⟨u, st, d, ch, rfl⟩ := a; exact kept ch.staysPut.1
  | waits _ _ _ _ _ _ _ w => obtain ⟨u, k, ch, -, -, rfl⟩ := w; exact kept ch.staysPut.1
  | departs _ _ _ _ _ l => exact kept l.sameDevice
  | departsAnswered _ _ _ _ _ _ _ _ _ _ l => exact (kept l.sameDevice :)
  | joins => exact hs
  | sweeps => exact kept (reclaimSlice_sameDevice s _ _)
  | queues => exact hs
  | captures _ _ _ _ ch => exact (kept ch.staysPut.1 :)
  | clockWork _ _ _ _ w ch =>
    refine ch.staysPut.1.1.trans ?_
    rcases w with rfl | rfl | ⟨n, hn, rfl⟩
    · exact hs
    · exact hs
    · rw [hs] at hn; cases hn
  | deviceReset => exact absurd rfl hc

theorem exec_initializationWrite {s : State} {n : Nat} (hd : s.device = .initializing n) (hr : s.rstAsserted = false) :
    exec .initializationWrite s = .next (s.initializeRecord n) := by
  simp [exec, execInitializationWrite, hd, hr]

theorem exec_deviceReady_early {s : State} {n : Nat} (hd : s.device = .initializing n) (hn : n < 4095) :
    exec .deviceReady s = .next s := by
  simp [exec, execDeviceReady, hd, hn]

theorem exec_deviceReady_last {s : State} {n : Nat} (hd : s.device = .initializing n) (hr : s.rstAsserted = false)
    (hn : 4095 ≤ n) : exec .deviceReady s = .next (s.initializeRecord n) := by
  have last : ¬ n + 1 < 4096 := by omega
  simp only [exec, execDeviceReady, hd, hr, last, decide_false, Bool.or_self, Bool.false_eq_true, if_false]

/-- While RST_N is asserted and once READY the initialization controller does nothing. -/
theorem exec_initialization_idle {s : State} (h : s.rstAsserted = true ∨ s.device = .ready) :
    exec .initializationWrite s = .next s ∧ exec .deviceReady s = .next s := by
  rcases hd : s.device with n | _
  · have hr : s.rstAsserted = true := h.resolve_right (by simp [hd])
    simp [exec, execInitializationWrite, execDeviceReady, hd, hr]
  · simp [exec, execInitializationWrite, execDeviceReady, hd]

/-- Settles O49: the controller's write, its two idle conditions, and the events that leave READY alone. -/
theorem initializationWritesEveryRecord : Obligations.InitializationWritesEveryRecord := by
  refine ⟨fun s n hd hr => ⟨s.initializeRecord n, exec_initializationWrite hd hr, ?written, fun h hh => ?others,
    fun hn => ?next, fun hn => ?ready, rfl, exec_deviceReady_early hd, exec_deviceReady_last hd hr⟩,
    fun s h => exec_initialization_idle h, fun c s t hd hx hc => (exec_event hx).device hc hd⟩
  case written => exact Table.get_put_same n .initial s.handles
  case others => exact Table.get_put_ne hh .initial s.handles
  case next => exact if_pos (by omega)
  case ready => exact if_neg (by omega)

/-! ### The millisecond tick (R136, R148) -/

theorem exec_millisecondTick {s : State} (hr : s.rstAsserted = false) (hd : s.divider = 0) :
    exec .millisecondTick s = .next s.tickLease := by
  have start : { s with divider := 0 } = s := by rw [← hd]
  simp only [exec, execMillisecondTick, hr, Bool.false_eq_true, if_false]
  rw [← hr, start]

theorem exec_leaseExpiry_expiring {s : State} (hr : s.rstAsserted = false) (he : s.lease.expiring = true) :
    exec .leaseExpiry s = exec .millisecondTick s := by
  simp [exec, execLeaseExpiry, execMillisecondTick, hr, he]

theorem exec_leaseExpiry_not {s : State} (he : s.lease.expiring = false) : exec .leaseExpiry s = .next s := by
  simp [exec, execLeaseExpiry, he]

theorem tickLease_expires {s : State} {p : Port} (hl : s.lease = .held p 1) :
    s.tickLease = ({ s with lease := .vacant }).raise p .lease := by
  simp [State.tickLease, hl]

theorem tickLease_counts {s : State} {p : Port} {r : Nat} (hl : s.lease = .held p r) (hr : 2 ≤ r) :
    s.tickLease = { s with lease := .held p (r - 1) } := by
  have : ¬ r ≤ 1 := by omega
  simp [State.tickLease, hl, this]

theorem tickLease_vacant {s : State} (hl : s.lease = .vacant) : s.tickLease = s := by
  simp [State.tickLease, hl]

theorem tickLease_divider (s : State) : s.tickLease.divider = s.divider :=
  (tickLease_changes s).staysPut.1.2.2.2.1

/-- Settles O42, by the state of the lease at the tick: VACANT, with time left, or at its last millisecond. -/
theorem tickCountsTheLeaseDown : Obligations.TickCountsTheLeaseDown := by
  refine ⟨fun s hr => ?reset, fun s hr hd => ⟨fun hl => ?vacant, fun p r hl h2 => ?counts, fun p hl => ?expires⟩,
    fun s t hr hx => ?divider⟩
  case reset => simp [exec, execMillisecondTick, execLeaseExpiry, hr]
  case vacant =>
    rw [exec_millisecondTick hr hd, tickLease_vacant hl, exec_leaseExpiry_not (by rw [hl]; rfl)]
    exact ⟨rfl, rfl⟩
  case counts =>
    have waits : s.lease.expiring = false := by
      rw [hl, Lease.expiring, decide_eq_false_iff_not]
      omega
    refine ⟨exec_leaseExpiry_not waits, _, exec_millisecondTick hr hd, ?_⟩
    rw [tickLease_counts hl h2]
    exact withLease_meets s _
  case expires =>
    refine ⟨exec_leaseExpiry_expiring hr (by rw [hl]; rfl), _, exec_millisecondTick hr hd, ?_⟩
    rw [tickLease_expires hl]
    exact ⟨SameDevice.refl s, fun _ => rfl, fun _ => rfl, fun _ => rfl,
      (raise_meets { s with lease := .vacant } p .lease).window, rfl, rfl, rfl⟩
  case divider =>
    simp only [exec, execMillisecondTick, hr, Bool.false_eq_true, if_false] at hx
    cases hx
    exact tickLease_divider _

/-! ### The port reset (R112, R120) -/

/-- Settles O9: the arrival acts by the port's membership alone. -/
theorem portResetDeparts : Obligations.PortResetDeparts := by
  refine fun s p => ⟨fun hd hp => ?online, fun hp => ?other⟩
  case online =>
    refine ⟨_, _, ?_, prologue_meets hd p⟩
    simp only [exec, execPortResetMembership, isOnline_of hp, if_true]
  case other => simp only [exec, execPortResetMembership, isOnline_not hp, Bool.false_eq_true, if_false]

/-! ### The charges and the recount pointer (R89) -/

/-- Settles O39, by where the handle stands to the pointer of a recount that runs. -/
theorem shadowChargeFollowsBelowThePointer : Obligations.ShadowChargeFollowsBelowThePointer := by
  refine fun q h p f => ⟨rfl, fun hn => ?none, fun rc hrc hl => ?below, fun rc hrc hl => ?above, rfl⟩
  case none => simp [PoolRec.adjustCharge, hn]
  case below => simp [PoolRec.adjustCharge, hrc, hl]
  case above => simp [PoolRec.adjustCharge, hrc, Nat.not_lt.2 hl]

end Sys2Proof.Machine
end

section
/-! PROOFS. Client ports: writes to the window, its reads and its reset (Chapter 6), the packed words of Chapter 10,
and the port bus (R149). -/

namespace Sys2Proof.Machine

/-! ### Accesses that are ignored, and accesses that act (R94, R144) -/

theorem ignoresWindow_of {s : State} {p : Port} (h : s.rstAsserted = true ∨ (s.window p).resetAsserted = true) :
    s.ignoresWindow p = true := by
  rw [State.ignoresWindow, Bool.or_eq_true]
  exact h

theorem listens_of {s : State} {p : Port} (hd : s.rstAsserted = false) (hp : (s.window p).resetAsserted = false) :
    s.ignoresWindow p = false := by
  rw [State.ignoresWindow, hd, hp, Bool.or_self]

theorem windowRead_ignored {s : State} {p : Port} (h : s.ignoresWindow p = true) (off : BitVec 4) :
    s.windowRead p off = 0 := by
  rw [State.windowRead, if_pos h]

/-- While the window is ignored a read captures 0000h and leaves the window (log 14). -/
theorem readArrives_ignored {s : State} {p : Port} (h : s.ignoresWindow p = true) (off : BitVec 4) :
    s.readArrives p off = s.capture p 0 := by
  simp [State.readArrives, h, windowRead_ignored h]

/-- A read of a location other than WATCHSET captures its word and changes nothing else. -/
theorem readArrives_other (s : State) (p : Port) {off : BitVec 4} (ho : off ≠ Offset.watchset) :
    s.readArrives p off = s.capture p (s.windowRead p off) := by
  simp [State.readArrives, ho]

/-- Settles O47: the two arrivals write the window outright, and an ignored access comes to nothing. -/
theorem portResetClearsTheWindow : Obligations.PortResetClearsTheWindow := by
  refine ⟨fun s p => ⟨_, rfl, updWindow_meets s p _⟩, fun s p => ⟨_, rfl, updWindow_meets s p _⟩,
    fun s p v off h => ?ignored⟩
  have ignored := ignoresWindow_of h
  refine ⟨?_, ?_, ?_, ?_, ?_, windowRead_ignored ignored off, ?_⟩
  · simp only [exec, execCommandPost, ignored, if_true]
  · simp only [exec, execAttnWrite, ignored, if_true]
  · simp only [exec, execAttnenWrite, ignored, if_true]
  · simp only [exec, execRespop, ignored, if_true]
  · simp only [exec, execRegisterWrite, State.writeArrives, ignored, if_true]
  · simp only [exec, execWatchsetRead, readArrives_ignored ignored]

theorem exec_registerWrite {s : State} {p : Port} (h : s.ignoresWindow p = false) (off : BitVec 4) (v : Word) :
    exec (.registerWrite p off v) s = .next (s.windowWrite p off v) := by
  simp [exec, execRegisterWrite, State.writeArrives, h]

theorem exec_attnWrite {s : State} {p : Port} (h : s.ignoresWindow p = false) (v : Word) :
    exec (.attnWrite p v) s = .next (s.writeAttn p v) := by
  simp only [exec, execAttnWrite, h, Bool.false_eq_true, if_false]

theorem exec_attnenWrite {s : State} {p : Port} (h : s.ignoresWindow p = false) (v : Word) :
    exec (.attnenWrite p v) s = .next (s.writeAttnen p v) := by
  simp only [exec, execAttnenWrite, h, Bool.false_eq_true, if_false]

theorem exec_respop {s : State} {p : Port} (h : s.ignoresWindow p = false) (v : Word) :
    exec (.respop p v) s = .next (s.writeRespop p) := by
  simp only [exec, execRespop, h, Bool.false_eq_true, if_false]

/-- A write to a read-only location changes nothing (R95). -/
theorem windowWrite_readOnly (s : State) (p : Port) (v : Word) {off : BitVec 4}
    (h : off ∈ [0#4, 7, 8, 9, 10, 11, 13, 14, 15]) : s.windowWrite p off v = s := by
  have other : off ≠ Offset.attn ∧ off ≠ Offset.attnen ∧ off ≠ Offset.arg0 ∧ off ≠ Offset.arg1 ∧ off ≠ Offset.arg2
      ∧ off ≠ Offset.cmd ∧ off ≠ Offset.respop := by
    revert off
    decide
  obtain ⟨h1, h2, h3, h4, h5, h6, h7⟩ := other
  simp only [State.windowWrite, h1, h2, h3, h4, h5, h6, h7, if_false]

/-- Settles O44, location by location. -/
theorem windowWritesAct : Obligations.WindowWritesAct := by
  intro s p v hd hp
  have listens := listens_of hd hp
  refine ⟨⟨_, { s.window p with sticky := (s.window p).sticky.clearedBy v }, exec_attnWrite listens v,
      updWindow_meets s p fun w => { w with sticky := w.sticky.clearedBy v }, rfl, rfl, rfl, rfl, rfl, rfl, rfl⟩,
    ⟨_, exec_attnenWrite listens v, ?enables⟩, ⟨_, exec_respop listens v, ?results⟩,
    ⟨_, exec_registerWrite listens 3 v, updWindow_meets s p fun w => { w with arg0 := v }⟩,
    ⟨_, exec_registerWrite listens 4 v, updWindow_meets s p fun w => { w with arg1 := v }⟩,
    ⟨_, exec_registerWrite listens 5 v, updWindow_meets s p fun w => { w with arg2 := v }⟩, fun off ho => ?readOnly⟩
  case enables =>
    rw [← BitVec.setWidth_eq_extractLsb' (by decide)]
    exact updWindow_meets s p _
  case results =>
    rw [List.drop_one]
    exact updWindow_meets s p _
  case readOnly => rw [exec_registerWrite listens, windowWrite_readOnly s p v ho]

end Sys2Proof.Machine
end

section
/-! PROOFS. Client ports: what a window read returns (Table 6-1), the packed words of Chapter 10, and the port bus
(R149). -/

namespace Sys2Proof.Machine

/-! ### A read of each location -/

section
variable {s : State} {p : Port}

theorem windowRead_pstat (h : s.ignoresWindow p = false) : s.windowRead p 0 = s.pstat p := by
  simp [State.windowRead, h, Offset.pstat]

theorem windowRead_attn (h : s.ignoresWindow p = false) : s.windowRead p 1 = 0#8 ++ s.causes p := by
  simp [State.windowRead, h, Offset.pstat, Offset.attn]

theorem windowRead_attnen (h : s.ignoresWindow p = false) : s.windowRead p 2 = 0#8 ++ (s.window p).enables := by
  simp [State.windowRead, h, Offset.pstat, Offset.attn, Offset.attnen]

theorem windowRead_reshead (h : s.ignoresWindow p = false) : s.windowRead p 7 = (s.window p).reshead := by
  simp [State.windowRead, h, Offset.pstat, Offset.attn, Offset.attnen, Offset.arg0, Offset.arg1, Offset.arg2,
    Offset.cmd, Offset.reshead]

theorem windowRead_res (h : s.ignoresWindow p = false) :
    s.windowRead p 8 = (s.window p).headData Data.res1 ∧ s.windowRead p 9 = (s.window p).headData Data.res2
      ∧ s.windowRead p 10 = (s.window p).headData Data.res3 ∧ s.windowRead p 11 = (s.window p).headData Data.res4 := by
  simp [State.windowRead, h, Offset.pstat, Offset.attn, Offset.attnen, Offset.arg0, Offset.arg1, Offset.arg2,
    Offset.cmd, Offset.reshead, Offset.res1, Offset.res2, Offset.res3, Offset.res4]

theorem windowRead_args (h : s.ignoresWindow p = false) :
    s.windowRead p 3 = (s.window p).arg0 ∧ s.windowRead p 4 = (s.window p).arg1
      ∧ s.windowRead p 5 = (s.window p).arg2 ∧ s.windowRead p 6 = 0 := by
  simp [State.windowRead, h, Offset.pstat, Offset.attn, Offset.attnen, Offset.arg0, Offset.arg1, Offset.arg2,
    Offset.cmd]

theorem windowRead_last (h : s.ignoresWindow p = false) :
    s.windowRead p 12 = word (s.window p).results.length ∧ s.windowRead p 13 = (s.window p).watchFired
      ∧ s.windowRead p 14 = (s.member p).inbound.inq ∧ s.windowRead p 15 = 0x4160 + word p.val := by
  simp [State.windowRead, h, Offset.pstat, Offset.attn, Offset.attnen, Offset.arg0, Offset.arg1, Offset.arg2,
    Offset.cmd, Offset.reshead, Offset.res1, Offset.res2, Offset.res3, Offset.res4, Offset.respop, Offset.watchset,
    Offset.inq, ident]

end

/-- Settles O45: the read captures the set before it is emptied. -/
theorem watchsetReadEmptiesTheSet : Obligations.WatchsetReadEmptiesTheSet := by
  intro s p hd hp
  have listens := listens_of hd hp
  have reads : s.windowRead p 0xD = (s.window p).watchFired := (windowRead_last listens).2.1
  refine ⟨reads, s.updWindow p fun w => { w with watchFired := 0 }, ?_, updWindow_meets s p _⟩
  have act : Offset.watchset = Offset.watchset ∧ (!s.ignoresWindow p) = true := ⟨rfl, by rw [listens]; rfl⟩
  rw [← reads]
  refine congrArg Host.Outcome.next ?_
  rw [State.readArrives, if_pos act]
  rfl

/-! ### The packed words -/

/-- A field of a packed word that lies in its low part. -/
theorem field_low {n m : Nat} (x : BitVec n) (y : BitVec m) {start len : Nat} (h : start + len ≤ m) :
    (x ++ y).extractLsb' start len = y.extractLsb' start len :=
  BitVec.extractLsb'_append_eq_of_add_le h

/-- The field at the top of a packed word. -/
theorem field_top {n m : Nat} (x : BitVec n) (y : BitVec m) : (x ++ y).extractLsb' m n = x :=
  BitVec.extractLsb'_append_eq_left

/-- A one-bit field stands as its bit. -/
theorem flag_top {m : Nat} (b : Bool) (y : BitVec m) : (BitVec.ofBool b ++ y).getLsbD m = b := by
  simp only [BitVec.getLsbD_append, lt_irrefl, Nat.sub_self, BitVec.getLsbD_ofBool]
  simp

theorem bit_low {n m : Nat} (x : BitVec n) (y : BitVec m) {i : Nat} (h : i < m) :
    (x ++ y).getLsbD i = y.getLsbD i := by
  rw [BitVec.getLsbD_append, if_pos h]

/-- The fields of PSTAT (Table 10-2). -/
theorem pstat_fields (s : State) (p : Port) :
    (s.pstat p).extractLsb' 0 2 = (s.member p).membership.code
      ∧ (s.pstat p).getLsbD 2 = decide (s.device = .ready)
      ∧ (s.pstat p).getLsbD 3 = (s.member p).evicted
      ∧ (s.pstat p).extractLsb' 4 3 = BitVec.ofNat 3 (s.window p).queue.length
      ∧ (s.pstat p).extractLsb' 7 4 = BitVec.ofNat 4 (s.window p).results.length
      ∧ (s.pstat p).extractLsb' 11 1 = BitVec.ofNat 1 (s.window p).reserved
      ∧ (s.pstat p).getLsbD 12 = (s.waitEntryOf p).isSome
      ∧ (s.pstat p).extractLsb' 13 3 = 0#3 := by
  have ready : s.device.code.getLsbD 0 = decide (s.device = .ready) := by
    cases s.device <;> simp [DeviceState.code]
  unfold State.pstat
  refine ⟨?_, ?_, ?_, ?_, ?_, ?_, ?_, field_top _ _⟩
  · iterate 7 rw [field_low _ _ (by decide)]
    exact BitVec.extractLsb'_eq_self
  · iterate 6 rw [bit_low _ _ (by decide)]
    rw [← ready, BitVec.getLsbD_append]
    rfl
  · iterate 5 rw [bit_low _ _ (by decide)]
    exact flag_top _ _
  · iterate 4 rw [field_low _ _ (by decide)]
    exact field_top _ _
  · iterate 3 rw [field_low _ _ (by decide)]
    exact field_top _ _
  · iterate 2 rw [field_low _ _ (by decide)]
    exact field_top _ _
  · rw [bit_low _ _ (by decide)]
    exact flag_top _ _

/-- The causes in ATTN's bits 7..0 (Table 10-3). -/
theorem causes_bits (s : State) (p : Port) :
    (s.causes p).getLsbD 0 = !(s.window p).results.isEmpty
      ∧ (s.causes p).getLsbD 1 = decide (0 < (s.member p).inbound.size)
      ∧ (s.causes p).getLsbD 2 = (s.window p).sticky.watch
      ∧ (s.causes p).getLsbD 3 = (s.window p).sticky.pool
      ∧ (s.causes p).getLsbD 4 = (s.window p).sticky.lease
      ∧ (s.causes p).getLsbD 5 = (s.window p).sticky.peer
      ∧ (s.causes p).getLsbD 6 = (s.window p).sticky.fault
      ∧ (s.causes p).getLsbD 7 = (s.window p).sticky.overrun := by
  simp only [State.causes, BitVec.getLsbD_append, BitVec.getLsbD_ofBool]
  simp

/-- The fields of INQ (Table 10-4). -/
theorem inq_fields (q : Inbound) :
    q.inq.extractLsb' 0 6 = BitVec.ofNat 6 q.urgent.length ∧ q.inq.extractLsb' 6 2 = 0#2
      ∧ q.inq.extractLsb' 8 6 = BitVec.ofNat 6 q.normal.length ∧ q.inq.extractLsb' 14 2 = 0#2 := by
  unfold Inbound.inq
  refine ⟨?_, ?_, ?_, field_top _ _⟩
  · iterate 2 rw [field_low _ _ (by decide)]
    exact BitVec.extractLsb'_append_eq_right
  · iterate 2 rw [field_low _ _ (by decide)]
    exact field_top _ _
  · rw [field_low _ _ (by decide)]
    exact field_top _ _

/-- The fields of a result header (Table 10-6). -/
theorem header_fields (r : Result) :
    r.header.extractLsb' 0 6 = r.code ∧ r.header.extractLsb' 6 4 = r.tag
      ∧ r.header.extractLsb' 10 6 = r.status.code := by
  have regroup : r.header = r.status.code ++ (r.tag ++ r.code) := BitVec.append_assoc ..
  rw [regroup]
  refine ⟨?_, ?_, field_top _ _⟩
  · rw [field_low _ _ (by decide)]
    exact BitVec.extractLsb'_append_eq_right
  · rw [field_low _ _ (by decide)]
    exact field_top _ _

/-- No status code has bit 5, so no header is FFFFh (R152). -/
theorem header_ne_empty (r : Result) : r.header ≠ 0xFFFF := by
  have small : ∀ st : Status, st.code ≠ 0x3F := by
    intro st
    cases st <;> decide
  intro h
  refine small r.status ?_
  rw [← (header_fields r).2.2, h]
  rfl

theorem header_masked (r : Result) : r.header &&& 0x03FF = (r.tag ++ r.code).setWidth 16 := by
  have regroup : r.header = r.status.code ++ (r.tag ++ r.code) := BitVec.append_assoc ..
  rw [regroup]
  refine BitVec.eq_of_getLsbD_eq fun i hi => ?_
  have mask : (0x03FF : Word).getLsbD i = decide (i < 10) := by
    revert hi
    revert i
    decide
  rw [BitVec.getLsbD_and, BitVec.getLsbD_setWidth, mask, BitVec.getLsbD_append]
  by_cases h : i < 10
  · rw [if_pos h, decide_eq_true h, decide_eq_true hi, Bool.and_true, Bool.true_and]
  · have beyond : (r.tag ++ r.code).getLsbD i = false := BitVec.getLsbD_of_ge _ _ (by omega)
    simp only [h, decide_false, Bool.and_false, beyond]

theorem mkToken_fields (w : Word) : mkToken (tokenGen w) (tokenHandle w) = w := by
  have handle : BitVec.ofNat 12 (tokenHandle w) = w.extractLsb' 0 12 := BitVec.ofNat_toNat ..
  rw [mkToken, handle, tokenGen]
  refine BitVec.eq_of_getLsbD_eq fun i hi => ?_
  rw [BitVec.getLsbD_append]
  by_cases h : i < 12
  · simp [h]
  · have place : 12 + (i - 12) = i := by omega
    have inside : i - 12 < 4 := by omega
    simp [h, place, inside]

/-- Settles O52. -/
theorem wordsKeepTheirFields : Obligations.WordsKeepTheirFields :=
  ⟨fun g _ hh => ⟨tokenGen_mkToken g _, tokenHandle_mkToken g hh⟩, mkToken_fields,
    fun r => ⟨header_ne_empty r, header_masked r⟩⟩

/-- The attention pin follows the words of ATTN and ATTNEN (R109). -/
theorem attention_iff (s : State) (p : Port) : s.attention p = true ↔
    ((0#8 ++ s.causes p : Word) &&& (0#8 ++ (s.window p).enables : Word)) ≠ 0 := by
  have both : ∀ a b : BitVec 8, ((0#8 ++ a : Word) &&& (0#8 ++ b : Word)) = (0#8 ++ (a &&& b) : Word) := by
    intro a b
    refine BitVec.eq_of_getLsbD_eq fun i hi => ?_
    simp only [BitVec.getLsbD_and, BitVec.getLsbD_append]
    split <;> simp
  have zero : ∀ b : BitVec 8, (0#8 ++ b : Word) = 0 ↔ b = 0 := by decide
  rw [both, State.attention, bne_iff_ne]
  exact not_congr (zero _).symm

/-- Settles O46, location by location. -/
theorem windowReadsReport : Obligations.WindowReadsReport := by
  intro s p hd hp
  have listens := listens_of hd hp
  obtain ⟨pstat0, pstat1, pstat2, pstat3, pstat4, pstat5, pstat6, pstat7⟩ := pstat_fields s p
  obtain ⟨cause0, cause1, cause2, cause3, cause4, cause5, cause6, cause7⟩ := causes_bits s p
  obtain ⟨arg0, arg1, arg2, cmd⟩ := windowRead_args listens
  obtain ⟨res1, res2, res3, res4⟩ := windowRead_res listens
  obtain ⟨respop, watchset, inq, ident⟩ := windowRead_last listens
  obtain ⟨inq0, inq1, inq2, inq3⟩ := inq_fields (s.member p).inbound
  have attn : ∀ i, i < 8 → (0#8 ++ s.causes p).getLsbD i = (s.causes p).getLsbD i := fun i hi => bit_low _ _ hi
  rw [windowRead_pstat listens, windowRead_attn listens, windowRead_attnen listens, inq]
  refine ⟨pstat0.trans ?state, pstat1, pstat2, pstat3, pstat4, pstat5, pstat6, pstat7,
    (attn 0 (by decide)).trans cause0, (attn 1 (by decide)).trans cause1, (attn 2 (by decide)).trans cause2,
    (attn 3 (by decide)).trans cause3, (attn 4 (by decide)).trans cause4, (attn 5 (by decide)).trans cause5,
    (attn 6 (by decide)).trans cause6, (attn 7 (by decide)).trans cause7, field_top _ _, ?enables, arg0, arg1, arg2,
    cmd, fun he => ?empty, fun r rest hr => ?oldest, respop, watchset, inq0, inq1, inq2, inq3, ident,
    attention_iff s p⟩
  case state => cases (s.member p).membership <;> rfl
  case enables =>
    refine BitVec.eq_of_getLsbD_eq fun i hi => ?_
    rw [BitVec.getLsbD_append, BitVec.getLsbD_setWidth]
    split <;> simp_all
  case empty =>
    rw [windowRead_reshead listens, res1, res2, res3, res4]
    simp only [Window.reshead, Window.headData, he, and_self]
  case oldest =>
    obtain ⟨code, tag, status⟩ := header_fields r
    rw [windowRead_reshead listens, res1, res2, res3, res4]
    simp only [Window.reshead, Window.headData, hr, and_self, and_true]
    exact ⟨header_ne_empty r, code, tag, status⟩

end Sys2Proof.Machine
end

section
/-! PROOFS. The port bus (R149, R150): arrivals, captured words and what an event does to the buses. -/

namespace Sys2Proof.Machine

/-! ### Which accesses arrive -/

theorem readBegins_iff (b : BusPhase) (now : BusPins) : b.readBegins now = true ↔
    now.readEnable = true ∧ b.before.readEnable = false ∧ now.wr = false := by
  simp [BusPhase.readBegins, and_assoc]

theorem writeEnds_iff (b : BusPhase) (now : BusPins) : b.writeEnds now = true ↔
    b.before.writeEnable = true ∧ now.writeEnable = false ∧ b.writeSpoilt = false := by
  simp [BusPhase.writeEnds, and_assoc]

theorem read_mem_arrivals (b : BusPhase) (now : BusPins) (off : BitVec 4) : BusAccess.read off ∈ b.arrivals now ↔
    b.readBegins now = true ∧ off = now.addr := by
  rw [arrivals_eq]
  cases b.writeEnds now <;> cases b.readBegins now <;> simp

theorem write_mem_arrivals (b : BusPhase) (now : BusPins) (off : BitVec 4) (v : Word) :
    BusAccess.write off v ∈ b.arrivals now ↔ b.writeEnds now = true ∧ off = b.before.addr ∧ v = b.before.data := by
  rw [arrivals_eq]
  cases b.writeEnds now <;> cases b.readBegins now <;> simp

theorem next_writeSpoilt_iff (b : BusPhase) (now : BusPins) : (b.next now).writeSpoilt = true ↔
    now.writeEnable = true ∧ (now.rd = true ∨ (b.before.writeEnable = true ∧ b.writeSpoilt = true)) := by
  simp [BusPhase.next]

/-- A read enable that goes on keeps its arrival; one that begins arrives unless PxWR_N is low. -/
theorem next_readArrived_iff (b : BusPhase) (now : BusPins) : (b.next now).readArrived = true ↔
    now.readEnable = true ∧ ((b.before.readEnable = false ∧ now.wr = false)
      ∨ (b.before.readEnable = true ∧ b.readArrived = true)) := by
  simp only [BusPhase.next, Bool.and_eq_true, Bool.or_eq_true, readBegins_iff]
  tauto

/-! ### What an arrival does -/

/-- An arrival with a row in the table is the event of that row. -/
theorem exec_command_access {s : State} {p : Port} {a : BusAccess} {c : Instr} (h : a.command p = some c) :
    exec c s = .next (s.accessArrives p a) := by
  cases a with
  | read off =>
    simp only [BusAccess.command] at h
    split at h
    · next ho => cases h; subst ho; rfl
    · cases h
  | write off v =>
    simp only [BusAccess.command] at h
    split at h
    · next ho => cases h; subst ho; rfl
    split at h
    · next ho => cases h; subst ho; rfl
    split at h
    · next ho => cases h; subst ho; rfl
    split at h
    · next ho => cases h; subst ho; rfl
    · cases h; rfl

/-! ### A moment of the bus -/

theorem writeArrived_bus (s : State) (p q : Port) (b : Bool) (off : BitVec 4) (v : Word) :
    (if b then s.writeArrives p off v else s).bus q = s.bus q := by
  split
  · exact writeArrives_bus s p off v q
  · rfl

theorem busMoment_reads {s : State} {p : Port} {now : BusPins} (h : (s.bus p).readBegins now = true) :
    s.busMoment p now = ((if (s.bus p).writeEnds now then
        s.writeArrives p (s.bus p).before.addr (s.bus p).before.data else s).readArrives p now.addr).updBus p
      fun b => b.next now := by
  rw [busMoment_eq, if_pos h]

theorem busMoment_other {s : State} {p : Port} {now : BusPins} (h : (s.bus p).readBegins now = false) :
    s.busMoment p now = (if (s.bus p).writeEnds now then
        s.writeArrives p (s.bus p).before.addr (s.bus p).before.data else s).updBus p fun b => b.next now := by
  rw [busMoment_eq, if_neg (by simp [h])]

/-- The pins of a read that begins are driven, whatever word has been captured. -/
theorem next_driven {b : BusPhase} {now : BusPins} (h : b.readBegins now = true) (v : Word) :
    (BusPhase.next { b with readData := v } now).driven = true := by
  obtain ⟨enabled, -, noWrite⟩ := (readBegins_iff b now).1 h
  simp only [BusPhase.driven, BusPhase.next, enabled, noWrite, Bool.true_and, Bool.not_false, Bool.and_true,
    Bool.or_eq_true]
  exact .inl h

/-- A read that begins drives the word its location holds after a write that ends at the same moment (log 18). -/
theorem busMoment_drives {s : State} {p : Port} {now : BusPins} (h : (s.bus p).readBegins now = true) :
    (s.busMoment p now).drivenWord p = some ((if (s.bus p).writeEnds now then
      s.accessArrives p (.write (s.bus p).before.addr (s.bus p).before.data) else s).windowRead p now.addr) := by
  rw [busMoment_reads h]
  simp only [State.drivenWord, updBus_bus_self, readArrives_bus_self, writeArrived_bus]
  rw [if_pos (next_driven h _)]
  rfl

theorem busMoment_keepsWord {s : State} {p : Port} {now : BusPins} (h : (s.bus p).readBegins now = false) :
    ((s.busMoment p now).bus p).readData = (s.bus p).readData := by
  rw [busMoment_other h, updBus_bus_self, writeArrived_bus]
  rfl

theorem busMoment_otherBus (s : State) {p q : Port} (now : BusPins) (hq : q ≠ p) :
    (s.busMoment p now).bus q = s.bus q := by
  rcases h : (s.bus p).readBegins now with _ | _
  · rw [busMoment_other h, updBus_bus_ne _ _ hq, writeArrived_bus]
  · rw [busMoment_reads h, updBus_bus_ne _ _ hq, readArrives_bus_ne _ _ hq, writeArrived_bus]

/-! ### The events and the buses -/

/-- A WATCHSET read captures its word at its own port; no other event touches a bus. -/
theorem Event.buses {c : Instr} {s t : State} (ev : Event c s t) :
    t.buses = s.buses ∨ ∃ (u : State) (p : Port) (v : Word), c = .watchsetRead p ∧ u.buses = s.buses ∧ t = u.capture p v := by
  have kept : ∀ {t : State}, SameDevice s t → t.buses = s.buses := fun h => h.2.2.2.2.1
  cases ev with
  | changes _ _ _ ch => exact .inl (kept ch.staysPut.1)
  | answers _ _ _ _ _ _ a => obtain ⟨u, st, d, ch, rfl⟩ := a; exact .inl (kept ch.staysPut.1)
  | waits _ _ _ _ _ _ _ w => obtain ⟨u, k, ch, -, -, rfl⟩ := w; exact .inl (kept ch.staysPut.1)
  | departs _ _ _ _ _ l => exact .inl (kept l.sameDevice)
  | departsAnswered _ _ _ _ _ _ _ _ _ _ l => exact .inl (kept l.sameDevice :)
  | joins => exact .inl rfl
  | sweeps => exact .inl (kept (reclaimSlice_sameDevice s _ _))
  | queues => exact .inl rfl
  | captures _ u p v ch => exact .inr ⟨u, p, v, rfl, kept ch.staysPut.1, rfl⟩
  | clockWork _ _ _ _ w ch =>
    refine .inl (ch.staysPut.1.2.2.2.2.1.trans ?_)
    rcases w with rfl | rfl | ⟨n, -, rfl⟩ <;> rfl
  | deviceReset => exact .inl rfl

theorem bus_of_buses {s t : State} (h : t.buses = s.buses) (p : Port) : t.bus p = s.bus p := by
  rw [State.bus, h, State.bus]

theorem exec_bus {c : Instr} {s t : State} (p : Port) (h : exec c s = .next t) :
    t.bus p = { s.bus p with readData := (t.bus p).readData } ∧ (c ≠ .watchsetRead p → t.bus p = s.bus p) := by
  rcases (exec_event h).buses with e | ⟨u, q, v, rfl, e, rfl⟩
  · rw [bus_of_buses e]
    exact ⟨rfl, fun _ => rfl⟩
  · have same := bus_of_buses e p
    by_cases hp : p = q
    · subst hp
      rw [capture_bus_self, same]
      exact ⟨rfl, fun hc => absurd rfl hc⟩
    · rw [capture_bus_ne u v hp, same]
      exact ⟨rfl, fun _ => rfl⟩

/-- Settles O53, from the accesses that arrive to the events that leave the bus alone. -/
theorem busAccessesArriveAndReadsAreHeld : Obligations.BusAccessesArriveAndReadsAreHeld := by
  refine ⟨fun b now => ⟨fun off => ?read, fun off v => ?write, next_writeSpoilt_iff b now,
    next_readArrived_iff b now, rfl, rfl⟩, fun s p a c h => exec_command_access h,
    fun s p off ho => readArrives_other s p ho, fun s p now => ⟨busMoment_drives, busMoment_keepsWord, fun ha => ?quiet,
      fun q hq => busMoment_otherBus s now hq⟩, fun s p => ?driven, fun c s t p h => exec_bus p h⟩
  case read =>
    rw [read_mem_arrivals, readBegins_iff]
    simp only [and_assoc]
  case write =>
    rw [write_mem_arrivals, writeEnds_iff]
    simp only [and_assoc]
  case quiet => rw [State.busMoment, ha]; rfl
  case driven =>
    have held : (s.bus p).driven = true ↔ (s.bus p).before.readEnable = true ∧ (s.bus p).readArrived = true
        ∧ (s.bus p).before.wr = false := by simp [BusPhase.driven, and_assoc]
    simp only [State.drivenWord, held]

end Sys2Proof.Machine
end

section
/-! PROOFS. Departures (R122 to R124, R130, R133): LEAVE, EVICT, and what a departure leaves outside the handle
table. -/

namespace Sys2Proof.Machine

/-! ### LEAVE and EVICT (R130, R133) -/

/-- Once taken, an effect of the command is an effect on the state before it, with the entry out of the queue. -/
theorem becomes_taken {s u : State} {p : Port} {re : HandleNo → HandleRec} {po : PoolId → PoolRec}
    {me : Port → Member} {le : Lease} {fc : Nat}
    (b : Becomes (s.taken p) u re po me (s.taken p).window le fc) :
    Becomes s u re po me (changeAt s.window p (s.window p).dequeued) le fc p :=
  ⟨b.same, b.record, b.pool, b.member, fun q => (b.window q).trans (taken_window s p q), b.lease, b.faultCount,
    b.lastGranted⟩

/-- A window update on the state of a command once taken. -/
theorem taken_updWindow_window (s : State) (p x q : Port) (f : Window → Window) :
    ((s.taken p).updWindow x f).window q
      = changeAt (changeAt s.window p (s.window p).dequeued) x (f ((s.taken p).window x)) q := by
  rw [updWindow_window]
  unfold changeAt
  split
  · rfl
  · exact taken_window s p q

/-- Settles O7: the body of LEAVE is the emptying of the window, the prologue and the answer. -/
theorem leaveDeparts : Obligations.LeaveDeparts := by
  intro s p e tk
  have emptied : Becomes s ((s.taken p).updWindow p fun w => { w with queue := [], results := [] })
      (window := changeAt s.window p { s.window p with queue := [], results := [] }) (lastGranted := p) := by
    refine ⟨SameDevice.refl s, fun _ => rfl, fun _ => rfl, fun _ => rfl, fun q => ?_, rfl, rfl, rfl⟩
    rw [taken_updWindow_window, taken_window_self]
    by_cases hq : q = p
    · subst hq; rw [changeAt_self, changeAt_self]
    · rw [changeAt_ne _ hq, changeAt_ne _ hq, changeAt_ne _ hq]
  have departs := prologue_meets (s := (s.taken p).updWindow p fun w => { w with queue := [], results := [] }) tk.ready p
  exact ⟨_, _, _, _, exec_leave tk, emptied, departs, answer_meets _ p e .ok _⟩

theorem evictBody_target {s : State} {p x : Port} {e : Entry} (hl : HoldsLease s p) (ha : e.arg0.toNat = x.val)
    (hx : x ≠ p) (ho : (s.member x).membership = .online) : evictBody p e s = evictTarget p x e s := by
  simp only [evictBody, portArg_of ha, holdsLease_of hl, isOnline_of ho, hx, Bool.not_true, Bool.false_eq_true,
    if_false]

/-- Settles O8: past its checks EVICT clears the target's window, marks it, performs the prologue and answers. -/
theorem evictDeparts : Obligations.EvictDeparts := by
  intro s p x e tk hl ha hx ho
  have marked : Becomes s (((s.taken p).updWindow x Window.cleared).updMember x fun m => { m with evicted := true })
      (member := changeAt s.member x { s.member x with evicted := true })
      (window := changeAt (changeAt s.window p (s.window p).dequeued) x
        { s.window x with
          arg0 := 0, arg1 := 0, arg2 := 0, queue := [], results := [], sticky := .clear,
          enables := 0, watchFired := 0 })
      (lastGranted := p) := by
    refine ⟨SameDevice.refl s, fun _ => rfl, fun _ => rfl, (updMember_meets ((s.taken p).updWindow x Window.cleared) x _).member, fun q => ?_, rfl,
      rfl, rfl⟩
    rw [updMember_window, taken_updWindow_window, taken_window_ne s hx]
    rfl
  have departs := prologue_meets
    (s := ((s.taken p).updWindow x Window.cleared).updMember x fun m => { m with evicted := true }) tk.ready x
  refine ⟨_, _, _, _, ?_, marked, departs, answer_meets _ p e .ok _⟩
  rw [exec_evict tk, evictBody_target (s := s.taken p) hl ha hx ho]
  rfl

/-! ### What the drops of a departing port leave of it -/

/-- The port is not ONLINE, and no pool record keeps anything for it. -/
structure Gone (s : State) (p : Port) : Prop where
  membership : (s.member p).membership ≠ .online
  pools : ∀ k, (s.pool k).NothingFor p

/-- The port stays gone, and its window stands. -/
def PassesBy (p : Port) (s t : State) : Prop := Gone s p → Gone t p ∧ t.window p = s.window p

theorem PassesBy.refl (p : Port) (s : State) : PassesBy p s s := fun h => ⟨h, rfl⟩

theorem PassesBy.trans {p : Port} {s t u : State} (a : PassesBy p s t) (b : PassesBy p t u) : PassesBy p s u :=
  fun h => ⟨(b (a h).1).1, (b (a h).1).2.trans (a h).2⟩

theorem changeAt_nothingFor {s : State} {k : PoolId} {q : PoolRec} {p : Port} (h : Gone s p) (hq : q.NothingFor p)
    (j : PoolId) : (changeAt s.pool k q j).NothingFor p := by
  unfold changeAt
  split
  · exact hq
  · exact h.pools j

theorem pushed_nothingFor {q : PoolRec} {p : Port} (h : q.NothingFor p) (j : HandleNo) :
    (q.pushed j).NothingFor p := by
  refine ⟨h.waitList, ?_, h.closer, h.requester⟩
  have entry : (q.pushed j).watches[p] = if q.firesAt p (q.depth + 1) then none else q.watches[p] := by
    simp [PoolRec.pushed]
  rw [entry]
  split
  · rfl
  · exact h.watch

theorem notified_of_nothingFor {q : PoolRec} {p : Port} (h : q.NothingFor p) (w : Window) (k : PoolId) :
    w.notified q k p = w := by
  rw [Window.notified, PoolRec.firesAt, h.watch]
  rfl

theorem told_of_nothingFor {q : PoolRec} {p : Port} (h : q.NothingFor p) (w : Window) : w.told q.closer p = w :=
  if_neg h.closer

theorem DrainTested.passesBy {s t : State} {k : PoolId} (d : DrainTested s t k) (p : Port) : PassesBy p s t := by
  by_cases c : (s.pool k).state = .draining ∧ (s.pool k).depth + (s.pool k).retired = (s.pool k).count
  · obtain ⟨-, -, b⟩ := d.1 c
    intro h
    refine ⟨⟨by rw [b.member]; exact h.membership, fun j => ?_⟩, ?_⟩
    · rw [b.pool]
      exact changeAt_nothingFor h (unconfigured_keepsNothing.nothingFor p) j
    · rw [b.window]
      exact told_of_nothingFor (h.pools k) _
  · rw [d.2 c]
    exact PassesBy.refl p s

theorem Disposes.passesBy {s t : State} {h : HandleNo} {how : Disposition} (d : Disposes s t h how) (p : Port) :
    PassesBy p s t := by
  rcases hk : (s.record h).state.pool? with _ | k
  · rw [(d.2.2 hk).2]; exact PassesBy.refl p s
  · rcases hw : (s.pool k).waitList with _ | ⟨v, rest⟩
    · obtain ⟨-, u, b, c⟩ := d.2.1 k hk hw
      refine PassesBy.trans (t := u) (fun hg => ?_) (c.passesBy p)
      refine ⟨⟨by rw [b.member]; exact hg.membership, fun j => ?_⟩, ?_⟩
      · rw [b.pool]
        exact changeAt_nothingFor hg (pushed_nothingFor (hg.pools k) h) j
      · rw [b.window]
        exact notified_of_nothingFor (hg.pools k) _ k
    · obtain ⟨-, b⟩ := d.1 k v rest hk hw
      intro hg
      have other : p ≠ v.port := fun e => (hg.pools k).waitList v (by rw [hw]; simp) e.symm
      refine ⟨⟨by rw [b.member]; exact hg.membership, fun j => ?_⟩, ?_⟩
      · rw [b.pool]
        have kept : PoolRec.NothingFor
            { (s.pool k).adjustCharge h v.port (· + 1) with waitList := rest } p :=
          ((hg.pools k).follows (adjustCharge_follows s _ h v.port _) hg.membership).shrink
            (fun w hm => by
              have : w ∈ v :: rest := List.mem_cons_of_mem _ hm
              rwa [← hw] at this) rfl rfl rfl
        exact changeAt_nothingFor hg kept j
      · rw [b.window, changeAt_ne _ other]

theorem DisposesIfDone.passesBy {s t : State} {h : HandleNo} {how : Disposition} (d : DisposesIfDone s t h how)
    (p : Port) : PassesBy p s t := by
  by_cases hr : (s.record h).refs = 0
  · exact (d.1 hr).passesBy p
  · rw [(d.2 hr).2]; exact PassesBy.refl p s

theorem afterFault_nothingFor {q : PoolRec} {p : Port} (h : q.NothingFor p) (j : HandleNo) (st : HandleState)
    (popped : Bool) : (q.afterFault j st popped).NothingFor p := by
  unfold PoolRec.afterFault
  repeat' split
  · exact ⟨h.waitList, h.watch, h.closer, h.requester⟩
  · exact ⟨h.waitList, h.watch, h.closer, h.requester⟩
  · exact h
  · refine ⟨h.waitList, h.watch, h.closer, ?_⟩
    exact ne_of_eq_of_ne (requester_map q (fun rc => { rc with disturbed := true }) fun _ => rfl) h.requester

theorem FaultPath.passesBy {s t : State} {h : HandleNo} {popped : Bool} (f : FaultPath s t h popped) (p : Port) :
    PassesBy p s t := by
  rcases hk : s.poolOf h with _ | k
  · have b := f.1 hk
    intro hg
    refine ⟨⟨by rw [b.member]; exact hg.membership, fun j => ?_⟩, b.window p⟩
    rw [b.pool]
    exact hg.pools j
  · obtain ⟨u, b, c1, c2⟩ := f.2 k hk
    have lost : PassesBy p s u := by
      intro hg
      refine ⟨⟨by rw [b.member]; exact hg.membership, fun j => ?_⟩, b.window p⟩
      rw [b.pool]
      exact changeAt_nothingFor hg (afterFault_nothingFor (hg.pools k) h _ popped) j
    by_cases c : popped = false ∧ h ∉ (s.pool k).stack ∧ (s.record h).state.isRetired = false
    · exact lost.trans ((c1 c).passesBy p)
    · rw [c2 c]; exact lost

theorem FaultAtOnline.passesBy {s t : State} (f : FaultAtOnline s t) (p : Port) : PassesBy p s t := by
  intro hg
  refine ⟨⟨by rw [f.member]; exact hg.membership, fun j => by rw [f.pool]; exact hg.pools j⟩, ?_⟩
  rw [f.window]
  exact if_neg hg.membership

/-- A delivery taken out of the queue of the departing port changes none of this. -/
theorem popped_passesBy {s a : State} {p : Port} {re : HandleNo → HandleRec} {m : Member}
    (b : Becomes s a (record := re) (member := changeAt s.member p m)) (hm : m.membership = (s.member p).membership) :
    PassesBy p s a := by
  intro hg
  refine ⟨⟨?_, fun j => by rw [b.pool]; exact hg.pools j⟩, b.window p⟩
  rw [b.member, changeAt_self, hm]
  exact hg.membership

theorem Drops.passesBy {p : Port} {s t : State} {n : Nat} (d : Drops p s t n) : PassesBy p s t := by
  induction d with
  | done => exact PassesBy.refl p _
  | drop s a b t d cl h how n _ _ _ ba db _ ih => exact ((popped_passesBy ba rfl).trans (db.passesBy p)).trans ih
  | fault s a b c t d cl h n _ _ _ ba fb gb _ ih =>
    exact (((popped_passesBy (re := s.record) ba rfl).trans (fb.passesBy p)).trans (gb.passesBy p)).trans ih

/-! ### What the drops leave of everything else -/

/-- The device, the lease, and of each port its membership and EVICTED stand. -/
structure KeepsRoles (s t : State) : Prop where
  same : SameDevice s t
  lease : t.lease = s.lease
  membership : ∀ q, (t.member q).membership = (s.member q).membership
  evicted : ∀ q, (t.member q).evicted = (s.member q).evicted

theorem KeepsRoles.refl (s : State) : KeepsRoles s s := ⟨SameDevice.refl s, rfl, fun _ => rfl, fun _ => rfl⟩

theorem KeepsRoles.trans {s t u : State} (a : KeepsRoles s t) (b : KeepsRoles t u) : KeepsRoles s u :=
  ⟨a.same.trans b.same, b.lease.trans a.lease, fun q => (b.membership q).trans (a.membership q),
    fun q => (b.evicted q).trans (a.evicted q)⟩

theorem KeepsPorts.roles {s t : State} (h : KeepsPorts s t) : KeepsRoles s t := by
  obtain ⟨same, member, lease, -⟩ := h
  exact ⟨same, lease, fun q => by rw [member], fun q => by rw [member]⟩

theorem FaultPath.roles {s t : State} {h : HandleNo} {popped : Bool} (f : FaultPath s t h popped) :
    KeepsRoles s t :=
  ⟨f.same, f.lease, f.membership, fun q => by rcases f.member q with e | e <;> rw [e]⟩

theorem popped_roles {s a : State} {p : Port} {re : HandleNo → HandleRec} {i : Inbound}
    (b : Becomes s a (record := re) (member := changeAt s.member p { s.member p with inbound := i })) :
    KeepsRoles s a := by
  refine ⟨b.same, b.lease, fun q => ?_, fun q => ?_⟩ <;> rw [b.member] <;> unfold changeAt <;> split
  · next e => subst e; rfl
  · rfl
  · next e => subst e; rfl
  · rfl

theorem Drops.roles {p : Port} {s t : State} {n : Nat} (d : Drops p s t n) : KeepsRoles s t := by
  induction d with
  | done => exact KeepsRoles.refl _
  | drop s a b t d cl h how n _ _ _ ba db _ ih => exact ((popped_roles ba).trans db.keepsPorts.roles).trans ih
  | fault s a b c t d cl h n _ _ _ ba fb gb _ ih =>
    exact (((popped_roles (re := s.record) ba).trans fb.roles).trans gb.keepsPorts.roles).trans ih

theorem Drops.empties {p : Port} {s t : State} {n : Nat} (d : Drops p s t n) :
    (t.member p).inbound = ⟨[], []⟩ := by
  induction d with
  | done s h => exact Inbound.chosen_none.1 h
  | drop _ _ _ _ _ _ _ _ _ _ _ _ _ _ _ ih => exact ih
  | fault _ _ _ _ _ _ _ _ _ _ _ _ _ _ _ _ ih => exact ih

theorem Drops.count_le {p : Port} {s t : State} {n : Nat} (d : Drops p s t n) :
    n ≤ (s.member p).inbound.size := by
  induction d with
  | done => exact Nat.zero_le _
  | drop s a b t d cl h how n hc _ _ ba db _ ih =>
    have shorter := Inbound.size_tail hc
    rw [db.keepsPorts.2.1, ba.member, changeAt_self] at ih
    dsimp only at ih
    omega
  | fault s a b c t d cl h n hc _ _ ba fb gb _ ih =>
    have shorter := Inbound.size_tail hc
    have fewer := fb.size p
    rw [gb.member] at ih
    rw [ba.member, changeAt_self] at fewer
    dsimp only at fewer
    omega

/-- Records that verify go on verifying. -/
def Verifying (s t : State) : Prop := ∀ j, (s.record j).verifies = true → (t.record j).verifies = true

theorem becomes_verifying {s t : State} {h : HandleNo} {r : HandleRec} {po : PoolId → PoolRec} {me : Port → Member}
    {wi : Port → Window} (b : Becomes s t (record := changeAt s.record h r) (pool := po) (member := me)
      (window := wi)) (hr : r.verifies = true) : Verifying s t := by
  intro j hj
  rw [b.record]
  unfold changeAt
  split
  · exact hr
  · exact hj

theorem DrainTested.verifying {s t : State} {k : PoolId} (d : DrainTested s t k) : Verifying s t := by
  intro j hj
  by_cases c : (s.pool k).state = .draining ∧ (s.pool k).depth + (s.pool k).retired = (s.pool k).count
  · obtain ⟨inside, outside, -⟩ := d.1 c
    by_cases hs : (s.pool k).spans j
    · rw [inside j hs]; rfl
    · rw [outside j hs]; exact hj
  · rw [d.2 c]; exact hj

theorem DisposesIfDone.verifying {s t : State} {h : HandleNo} {how : Disposition} (d : DisposesIfDone s t h how) :
    Verifying s t := by
  by_cases hr : (s.record h).refs = 0
  · have d := d.1 hr
    rcases hk : (s.record h).state.pool? with _ | k
    · rw [(d.2.2 hk).2]; exact fun _ hj => hj
    · rcases hw : (s.pool k).waitList with _ | ⟨v, rest⟩
      · obtain ⟨-, u, b, c⟩ := d.2.1 k hk hw
        exact fun j hj => c.verifying j (becomes_verifying b rfl j hj)
      · exact becomes_verifying (d.1 k v rest hk hw).2 rfl
  · rw [(d.2 hr).2]; exact fun _ hj => hj

theorem mem_of_mem_tail {q : Inbound} {d : Delivery} (h : d ∈ q.tail.urgent ++ q.tail.normal) :
    d ∈ q.urgent ++ q.normal := by
  unfold Inbound.tail at h
  split at h
  · next x rest hx => rw [hx]; exact List.mem_cons_of_mem _ h
  · next hx =>
    rw [hx] at h ⊢
    exact List.mem_of_mem_tail h

theorem chosen_mem {q : Inbound} {d : Delivery} {cl : DeliveryClass} (h : q.chosen = some (d, cl)) :
    d ∈ q.urgent ++ q.normal := by
  unfold Inbound.chosen at h
  split at h
  · next x rest hx => cases h; simp [hx]
  · split at h
    · next y rest hy => cases h; simp [hy]
    · cases h

/-- Where every delivery's record verifies, every delivery is dropped and counted (R123). -/
theorem Drops.count_eq {p : Port} {s t : State} {n : Nat} (d : Drops p s t n)
    (hv : ∀ d ∈ (s.member p).inbound.urgent ++ (s.member p).inbound.normal,
      (s.record (tokenHandle d.token)).verifies = true) : n = (s.member p).inbound.size := by
  induction d with
  | done s h => rw [Inbound.chosen_none.1 h]; rfl
  | drop s a b t d cl h how n hc _ hr ba db _ ih =>
    have shorter := Inbound.size_tail hc
    have member : (b.member p).inbound = (s.member p).inbound.tail := by
      rw [db.keepsPorts.2.1, ba.member, changeAt_self]
    rw [member] at ih
    have counted := ih fun d' hd' => db.verifying _ (becomes_verifying (h := h) ba hr _ (hv d' (mem_of_mem_tail hd')))
    omega
  | fault s a b c t d cl h n hc ht hf _ _ _ _ _ =>
    have verifies := hv d (chosen_mem hc)
    rw [ht, hf] at verifies
    cases verifies

/-- The first steps of the prologue leave nothing of the port in the pools (R122). -/
theorem forgotten_gone {s a : State} {p : Port} {wi : Port → Window} {le : Lease}
    (b : Becomes s a (pool := fun k => (s.pool k).forget p)
      (member := changeAt s.member p { s.member p with membership := .reclaiming 0 }) (window := wi) (lease := le)) :
    Gone a p := by
  refine ⟨?_, fun k => ?_⟩
  · rw [b.member, changeAt_self]
    simp
  · rw [b.pool]
    exact forget_nothingFor _ p

/-- Settles O10: the first steps take the port's roles away, and neither the drops nor PEER give any back. -/
theorem departureLeavesNothingOutsideTheTable : Obligations.DepartureLeavesNothingOutsideTheTable := by
  rintro s t p n ⟨a, b, ba, drops, bt⟩
  obtain ⟨gone, window⟩ := drops.passesBy (forgotten_gone ba)
  have roles := drops.roles
  have lease : t.lease = if s.holdsLease p then .vacant else s.lease := (bt.lease.trans roles.lease).trans ba.lease
  have inbound : (a.member p).inbound = (s.member p).inbound := by rw [ba.member, changeAt_self]
  have member : ∀ q, q ≠ p → a.member q = s.member q := fun q hq => by rw [ba.member, changeAt_ne _ hq]
  refine ⟨?reclaiming, ?evicted, ?empty, ?window, ?noLease, fun hl => ?lease, fun k => ?pools, fun q hq => ?others,
    ?le, fun hv => ?eq, (ba.same.trans roles.same).trans bt.same⟩
  case reclaiming => rw [bt.member, roles.membership, ba.member, changeAt_self]
  case evicted => rw [bt.member, roles.evicted, ba.member, changeAt_self]
  case empty => rw [bt.member]; exact drops.empties
  case window =>
    rw [bt.window, if_neg (by simp), window, ba.window, changeAt_self]
  case noLease =>
    rintro ⟨r, hr⟩
    rw [lease] at hr
    split at hr
    · cases hr
    · next hn => exact hn (holdsLease_of ⟨r, hr⟩)
  case lease => rw [lease, if_neg (by rw [holdsLease_not hl]; simp)]
  case pools =>
    rw [bt.pool]
    exact (nothingFor_iff _ _).1 (gone.pools k)
  case others =>
    refine ⟨by rw [bt.member, roles.membership, member q hq], by rw [bt.member, roles.evicted, member q hq],
      fun ho => ?_⟩
    have online : (b.member q).membership = .online := by rw [roles.membership, member q hq, ho]
    rw [bt.window, if_pos ⟨hq, online⟩]
    rfl
  case le => rw [← inbound]; exact drops.count_le
  case eq =>
    rw [← inbound]
    refine drops.count_eq fun d hd => ?_
    rw [inbound] at hd
    rw [ba.record]
    exact hv d hd

end Sys2Proof.Machine
end

section
/-! PROOFS. Allocation (R46 to R51), holding (R59 to R63), the refusals of tokens (R6) and the answer to a check
fault (R18). -/

namespace Sys2Proof.Machine

/-! ### What taking a command comes to -/

/-- A command whose body only answers is answered, and nothing else happens. -/
theorem answersOnly_of_body {c : Instr} {s : State} {p : Port} {e : Entry} {st : Status} {d : Data}
    {body : Port → Entry → State → State} (row : exec c s = .next (body p e (s.taken p)))
    (h : body p e (s.taken p) = (s.taken p).answer p e st d) : AnswersOnly c s p e st d :=
  answersOnly_of_taken (by rw [row, h])

theorem updPool_updPool (s : State) (k : PoolId) (f g : PoolRec → PoolRec) :
    (s.updPool k f).updPool k g = s.updPool k fun q => g (f q) := by
  simp [State.updPool, State.pool]

/-! ### ALLOCATE (R46 to R51) -/

section
variable {s : State} {p : Port} {e : Entry} {k : PoolId}

theorem allocateBody_handle (ha : e.arg0.toNat = k.val) (hk : (s.pool k).state = .active)
    (hq : (s.pool k).charge[p] < (s.pool k).quota[p]) {h : HandleNo}
    (ho : (popUntilGood k p (s.pool k).stack 0 s).handle = some h) :
    allocateBody p e s = allocateHandle p k h (popUntilGood k p (s.pool k).stack 0 s).faulty e
      (popUntilGood k p (s.pool k).stack 0 s).state := by
  simp only [allocateBody, poolArg_of ha, hk, not_le.2 hq, if_false, ho]

theorem allocateBody_empty (ha : e.arg0.toNat = k.val) (hk : (s.pool k).state = .active)
    (hq : (s.pool k).charge[p] < (s.pool k).quota[p])
    (ho : (popUntilGood k p (s.pool k).stack 0 s).handle = none) :
    allocateBody p e s = allocateEmpty p k (popUntilGood k p (s.pool k).stack 0 s).faulty e
      (popUntilGood k p (s.pool k).stack 0 s).state := by
  simp only [allocateBody, poolArg_of ha, hk, not_le.2 hq, if_false, ho]

end

theorem popUntilGood_verifies {s : State} {h : HandleNo} (hv : (s.record h).verifies = true) (k : PoolId) (p : Port)
    (rest : List HandleNo) (n : Nat) : popUntilGood k p (h :: rest) n s
      = ⟨some h, n, s.updPool k fun q => { q with stack := rest }⟩ :=
  if_pos (show ((s.updPool k fun q => { q with stack := rest }).record h).verifies = true from hv)

/-- The state in which a good pop is answered: the handle is IN_USE with one hold of the port (R47). -/
def State.allocated (s : State) (p : Port) (k : PoolId) (h : HandleNo) : State :=
  (s.updPool k fun q => q.adjustCharge h p (· + 1)).writeRecord h
    ((HandleRec.blank (.inUse k) (s.record h).gen).setHold p 1)

theorem allocated_meets {s : State} (hd : s.device = .ready) (p : Port) (k : PoolId) (h : HandleNo) :
    Becomes s (s.allocated p k h)
      (record := changeAt s.record h ((HandleRec.blank (.inUse k) (s.record h).gen).setHold p 1))
      (pool := changeAt s.pool k ((s.pool k).adjustCharge h p (· + 1))) :=
  updPool_writeRecord_meets hd k _ h rfl

theorem allocateHandle_eq (p : Port) (k : PoolId) (h : HandleNo) (n : Nat) (e : Entry) (s : State) :
    allocateHandle p k h n e s = (s.allocated p k h).answer p e .ok
      { res1 := mkToken (s.record h).gen h, res2 := word n, res3 := word (s.pool k).depth } := by
  have depth : ((s.allocated p k h).pool k).depth = (s.pool k).depth := by
    rw [State.allocated, writeRecord_pool, updPool_pool_self]
    rfl
  rw [← depth]
  rfl

/-- Settles O13: the first pop verifies, so it is the last one. -/
theorem allocatePopsTheTop : Obligations.AllocatePopsTheTop := by
  intro s p e k h rest tk ha hk hq hs hv
  have popped : popUntilGood k p ((s.taken p).pool k).stack 0 (s.taken p)
      = ⟨some h, 0, (s.taken p).updPool k fun q => { q with stack := rest }⟩ := by
    rw [show ((s.taken p).pool k).stack = h :: rest from hs]
    exact popUntilGood_verifies (s := s.taken p) hv k p rest 0
  have body : allocateBody p e (s.taken p)
      = ((((s.taken p).updPool k fun q => { q with stack := rest }).allocated p k h).answer p e .ok
          { res1 := mkToken (s.record h).gen h, res2 := 0, res3 := word rest.length }) := by
    rw [allocateBody_handle (s := s.taken p) ha hk hq (by rw [popped]), popped, allocateHandle_eq, updPool_pool_self]
    rfl
  refine ⟨_, (exec_allocate tk).trans (by rw [body]), becomes_answered ?_ e .ok _⟩
  rw [State.allocated, updPool_updPool]
  exact updPool_writeRecord_meets (s := s.taken p) tk.ready k
    (fun q => { q.adjustCharge h p (· + 1) with stack := rest }) h rfl

theorem waitEntryOf_congr {s t : State} (h : ∀ j, (t.pool j).waitList = (s.pool j).waitList) (p : Port) :
    t.waitEntryOf p = s.waitEntryOf p := by
  simp only [State.waitEntryOf, h]

theorem allocateEmpty_refused (p : Port) (k : PoolId) (n : Nat) {e : Entry} (s : State) (hf : e.flagA = false) :
    allocateEmpty p k n e s = s.answer p e .poolEmpty { res2 := word n } := by
  simp [allocateEmpty, hf]

theorem allocateEmpty_busy {p : Port} (k : PoolId) (n : Nat) {e : Entry} {s : State} (hf : e.flagA = true) {j : PoolId}
    {w : WaitEntry} (hw : s.waitEntryOf p = some (j, w)) :
    allocateEmpty p k n e s = s.answer p e .waitBusy { res1 := word j.val, res2 := word n } := by
  simp only [allocateEmpty, hf, if_true, hw]

theorem allocateEmpty_waits {p : Port} (k : PoolId) (n : Nat) {e : Entry} {s : State} (hf : e.flagA = true)
    (hw : s.waitEntryOf p = none) : allocateEmpty p k n e s = beginWaiting p k e s := by
  simp only [allocateEmpty, hf, if_true, hw]

theorem beginWaiting_meets (p : Port) (k : PoolId) (e : Entry) (s : State) :
    Becomes s (beginWaiting p k e s)
      (pool := changeAt s.pool k { s.pool k with waitList := (s.pool k).waitList ++ [⟨p, e.tag⟩] })
      (window := changeAt s.window p { s.window p with reserved := 1 }) :=
  ⟨SameDevice.refl s, fun _ => rfl,
    (updPool_meets s k fun q => { q with waitList := q.waitList ++ [⟨p, e.tag⟩] }).pool, fun _ => rfl,
    (updWindow_meets s p fun w => { w with reserved := 1 }).window, rfl, rfl, rfl⟩

/-- Settles O14: the pops end with a handle or with an empty stack, and then flag A and the port's wait-list entry
decide. -/
theorem allocateEndsItsPops : Obligations.AllocateEndsItsPops := by
  intro s p e k tk ha hk hq
  obtain ⟨n, faulty, pops⟩ := popUntilGood_meets k p ((s.taken p).pool k).stack 0 (s.taken p) tk.ready rfl
  rw [Nat.zero_add] at faulty
  obtain ⟨device, lists⟩ := pops.waitLists
  have entries : (popUntilGood k p ((s.taken p).pool k).stack 0 (s.taken p)).state.waitEntryOf p = s.waitEntryOf p :=
    waitEntryOf_congr (s := s.taken p) lists p
  have empty := allocateBody_empty (s := s.taken p) (p := p) (e := e) (k := k) ha hk hq
  refine ⟨_, _, _, _, n, exec_allocate tk, taken_meets s p, pops, fun h ho => ?handle, fun ho hf => ?refused,
    fun j w ho hf hw => ?busy, fun ho hf hw => ?waits⟩
  case handle =>
    rw [allocateBody_handle (s := s.taken p) ha hk hq ho, faulty, allocateHandle_eq]
    exact ⟨_, allocated_meets (device.trans tk.ready) p k h, answer_meets _ p e .ok _⟩
  case refused =>
    rw [empty ho, faulty, allocateEmpty_refused p k n _ hf]
    exact answer_meets _ p e .poolEmpty _
  case busy =>
    rw [empty ho, faulty, allocateEmpty_busy k n hf (entries.trans hw)]
    exact answer_meets _ p e .waitBusy _
  case waits =>
    rw [empty ho, faulty, allocateEmpty_waits k n hf (entries.trans hw)]
    exact beginWaiting_meets p k e _

/-! ### RELEASE, RETAIN and DESCRIBE (R60, R62, R63) -/

/-- Past its token a command runs its own rule. -/
theorem taken_withToken {s : State} {p : Port} {e : Entry} {h : HandleNo} {k : PoolId}
    (v : ValidToken s e.arg0 h k) (hp : (s.record h).hold p ≠ 0) (body : HandleNo → PoolId → State) :
    (s.taken p).withToken p e body = body h k :=
  withToken_holder (s := s.taken p) v hp body

/-- A record is written, and the port's charge changes where a hold of the port is 0. -/
theorem charged_meets {s : State} (hd : s.device = .ready) (k : PoolId) (h : HandleNo) (p : Port) (f : Nat → Nat)
    {r : HandleRec} (hr : r.verifies = true) (n : Nat) :
    Becomes s ((if n = 0 then s.updPool k fun q => q.adjustCharge h p f else s).writeRecord h r)
      (record := changeAt s.record h r)
      (pool := if n = 0 then changeAt s.pool k ((s.pool k).adjustCharge h p f) else s.pool) := by
  by_cases hn : n = 0
  · rw [if_pos hn, if_pos hn]
    exact updPool_writeRecord_meets hd k _ h hr
  · rw [if_neg hn, if_neg hn]
    exact writeRecord_meets hd h hr

/-- Settles O16: a hold of 1 is the one whose release leaves none. -/
theorem releaseGivesBackOneHold : Obligations.ReleaseGivesBackOneHold := by
  intro s p e h k tk v hp
  have one : ((s.record h).hold p = 1) = ((s.record h).hold p - 1 = 0) := propext (by omega)
  have lowered := charged_meets (s := s.taken p) tk.ready k h p (· - 1)
    (r := (s.record h).setHold p ((s.record h).hold p - 1)) v.2.1 ((s.record h).hold p - 1)
  refine ⟨_, _, _, _, ?_, becomes_taken ?_, disposeIfDone_meets (lowered.device.trans tk.ready) h,
    answer_meets _ p e .ok _⟩
  · rw [exec_release tk, releaseBody, taken_withToken v hp]
    rfl
  · simp only [one]
    exact lowered

/-- Settles O17. -/
theorem retainAddsOneHold : Obligations.RetainAddsOneHold := by
  intro s p e h k tk v hp
  have row := exec_retain tk
  rw [retainBody, taken_withToken v hp] at row
  dsimp only [taken_record] at row
  refine ⟨fun hl => ⟨_, row, ?_⟩, fun hl => answersOnly_of_taken (row.trans ?_)⟩
  · rw [if_neg hl]
    exact becomes_answered (writeRecord_meets (s := s.taken p) tk.ready h
      (r := (s.record h).setHold p ((s.record h).hold p + 1)) v.2.1) e .ok _
  · rw [if_pos hl]

/-- Settles O18. -/
theorem describeReplacesTheWords : Obligations.DescribeReplacesTheWords := by
  intro s p e h k tk v hp
  refine ⟨_, (exec_describe tk).trans (by rw [describeBody, taken_withToken v hp]), ?_⟩
  exact becomes_answered (writeRecord_meets (s := s.taken p) tk.ready h
    (r := { s.record h with length := e.arg1, tag := e.arg2 }) v.2.1) e .ok _

/-! ### The refusals of tokens (R6) -/

section
variable {s : State} {p : Port} {e : Entry}

theorem withToken_retired (hv : s.validate e.arg0 = .retired) (body : HandleNo → PoolId → State) :
    s.withToken p e body = s.answer p e .retired := by
  simp only [State.withToken, hv]

theorem withToken_stale (hv : s.validate e.arg0 = .stale) (body : HandleNo → PoolId → State) :
    s.withToken p e body = s.answer p e .stale := by
  simp only [State.withToken, hv]

theorem withToken_notHolder {k : PoolId} (hv : s.validate e.arg0 = .valid k)
    (hp : (s.record (tokenHandle e.arg0)).hold p = 0) (body : HandleNo → PoolId → State) :
    s.withToken p e body = s.answer p e .notHolder := by
  simp only [State.withToken, hv, hp, if_true]

end

section
variable {s : State} {t : Word}

theorem validate_retired {k : PoolId} {reason : RetireReason} (hv : (s.record (tokenHandle t)).verifies = true)
    (hr : (s.record (tokenHandle t)).state = .retired k reason)
    (hg : tokenGen t = (s.record (tokenHandle t)).gen - 1) : s.validate t = .retired := by
  simp only [State.validate, hv, hr, hg, Bool.not_true, Bool.false_eq_true, if_false, if_true]

theorem validate_stale_of_unassigned (hv : (s.record (tokenHandle t)).verifies = true)
    (hr : (s.record (tokenHandle t)).state = .unassigned) : s.validate t = .stale := by
  simp only [State.validate, hv, hr, Bool.not_true, Bool.false_eq_true, if_false]

theorem validate_stale_of_free {k : PoolId} (hv : (s.record (tokenHandle t)).verifies = true)
    (hr : (s.record (tokenHandle t)).state = .free k) : s.validate t = .stale := by
  simp only [State.validate, hv, hr, Bool.not_true, Bool.false_eq_true, if_false]

theorem validate_stale_of_inUse {k : PoolId} (hv : (s.record (tokenHandle t)).verifies = true)
    (hr : (s.record (tokenHandle t)).state = .inUse k) (hg : tokenGen t ≠ (s.record (tokenHandle t)).gen) :
    s.validate t = .stale := by
  simp only [State.validate, hv, hr, hg, Bool.not_true, Bool.false_eq_true, if_false]

end

/-- Each of the four commands that take a token begins with its validation. -/
theorem exec_tokenCommand {s : State} {p : Port} {e : Entry} {c : Instr} {code : BitVec 6}
    (hc : (c, code) ∈ [(Instr.release p, Code.release), (.retain p, Code.retain), (.describe p, Code.describe),
      (.send p, Code.send)]) (tk : Takes s p code e) :
    ∃ body, exec c s = .next ((s.taken p).withToken p e body) := by
  simp only [List.mem_cons, Prod.mk.injEq, List.not_mem_nil, or_false] at hc
  rcases hc with ⟨rfl, rfl⟩ | ⟨rfl, rfl⟩ | ⟨rfl, rfl⟩ | ⟨rfl, rfl⟩
  · exact ⟨_, exec_release tk⟩
  · exact ⟨_, exec_retain tk⟩
  · exact ⟨_, exec_describe tk⟩
  · exact ⟨_, exec_send tk⟩

/-- Settles O19, by the outcomes of the validation. -/
theorem tokenCommandsRefuse : Obligations.TokenCommandsRefuse := by
  intro s p e c code hc tk hv
  obtain ⟨body, row⟩ := exec_tokenCommand hc tk
  refine ⟨fun k reason hr hg => ?retired, fun k reason hr hg => ?older, fun hr => ?unassigned, fun k hr => ?free,
    fun k hr hg => ?inUse, fun k hr hg hp => ?notHolder⟩ <;> refine answersOnly_of_taken (row.trans ?_)
  case retired => rw [withToken_retired (validate_retired (s := s.taken p) hv hr hg)]
  case older => rw [withToken_stale (validate_stale_of_retired (s := s.taken p) rfl hv hr hg)]
  case unassigned => rw [withToken_stale (validate_stale_of_unassigned (s := s.taken p) hv hr)]
  case free => rw [withToken_stale (validate_stale_of_free (s := s.taken p) hv hr)]
  case inUse => rw [withToken_stale (validate_stale_of_inUse (s := s.taken p) hv hr hg)]
  case notHolder =>
    rw [withToken_notHolder (s := s.taken p) (validate_valid (s := s.taken p) ⟨rfl, hv, hr, hg⟩) hp]

/-! ### The answer to a check fault (R18) -/

theorem withHandle_fault {s : State} {p : Port} {e : Entry} {h : HandleNo} (ha : e.arg0.toNat = h) (hl : h < 4096)
    (lease : HoldsLease s p) (hv : (s.record h).verifies = false) (body : HandleNo → HandleRec → State) :
    s.withHandle p e body = s.answerFault p e h := by
  simp [State.withHandle, handleArg_of ha hl, holdsLease_of lease, hv]

theorem inspectBody_fault {s : State} (p : Port) {e : Entry} {h : HandleNo} (ha : e.arg0.toNat = h) (hl : h < 4096)
    (hv : (s.record h).verifies = false) : inspectBody p e s = s.answerFault p e h := by
  simp [inspectBody, handleArg_of ha hl, hv]

section
variable {s : State} {p : Port} {d : Delivery} {cl : DeliveryClass}

theorem takeBody_fault (hc : (s.member p).inbound.chosen = some (d, cl)) (e : Entry)
    (hv : (s.record (tokenHandle d.token)).verifies = false) :
    takeBody p e s = s.answerFault p e (tokenHandle d.token) := by
  simp [takeBody, hc, hv]

theorem refuseBody_fault (hc : (s.member p).inbound.chosen = some (d, cl)) (e : Entry)
    (hv : (s.record (tokenHandle d.token)).verifies = false) :
    refuseBody p e s = s.answerFault p e (tokenHandle d.token) := by
  simp [refuseBody, hc, hv]

end

/-- The first handle of the range that does not verify as UNASSIGNED, where every one below it does. -/
theorem firstBlocked_first {s : State} {first count h : Nat} (hl : first ≤ h) (hh : h < first + count)
    (below : ∀ j, first ≤ j → j < h → (s.record j).verifies = true ∧ (s.record j).state = .unassigned)
    (hb : (s.record h).verifies = false ∨ (s.record h).state ≠ .unassigned) :
    s.firstBlocked (List.range' first count) = some h := by
  have split : List.range' first count = List.range' first (h - first) ++ List.range' h (first + count - h) := by
    have start : first + (h - first) = h := by omega
    have total : count = (h - first) + (first + count - h) := by omega
    conv_lhs => rw [total, ← List.range'_append_1, start]
  have head : List.range' h (first + count - h) = h :: List.range' (h + 1) (first + count - h - 1) := by
    obtain ⟨m, hm⟩ : ∃ m, first + count - h = m + 1 := ⟨first + count - h - 1, by omega⟩
    rw [hm, List.range'_succ]
    rfl
  have clear : ∀ j ∈ List.range' first (h - first),
      ¬ (!(s.record j).verifies || decide ((s.record j).state ≠ .unassigned)) = true := by
    intro j hj
    rw [List.mem_range'_1] at hj
    obtain ⟨hv, hs⟩ := below j hj.1 (by omega)
    simp [hv, hs]
  rw [State.firstBlocked, split, List.find?_append, List.find?_eq_none.2 clear, head]
  rcases hb with hb | hb <;> simp [hb]

theorem createBody_over {s : State} {p : Port} {e : Entry} {k : PoolId} (ha : e.arg0.toNat = k.val)
    (lease : HoldsLease s p) (hn : e.arg2.toNat ≠ 0) (hc : e.arg2.toNat ≤ 4096)
    (hr : e.arg1.toNat + e.arg2.toNat ≤ 4096) (hk : (s.pool k).state = .unconfigured) :
    createBody p e s = createOver p k e.arg1.toNat e.arg2.toNat e s := by
  have range : ¬ (e.arg2.toNat = 0 ∨ 4096 < e.arg2.toNat ∨ 4096 < e.arg1.toNat + e.arg2.toNat) := by omega
  simp [createBody, poolArg_of ha, range, holdsLease_of lease, hk]

theorem createOver_fault {s : State} (p : Port) (k : PoolId) {first count : Nat} (e : Entry) {h : HandleNo}
    (hb : s.firstBlocked (List.range' first count) = some h) (hv : (s.record h).verifies = false) :
    createOver p k first count e s = s.answerFault p e h := by
  simp [createOver, hb, hv]

/-- Whichever command reads the damaged record, its rule ends in the answer to the fault. -/
theorem exec_readsRecord {c : Instr} {s : State} {p : Port} {e : Entry} {h : HandleNo} (rd : ReadsRecord c s p e h)
    (hv : (s.record h).verifies = false) :
    s.device = .ready ∧ exec c s = .next ((s.taken p).answerFault p e h) := by
  cases c
  case release q =>
    obtain ⟨rfl, tk, rfl⟩ := rd
    exact ⟨tk.ready, by rw [exec_release tk, releaseBody, withToken_fault (s := s.taken q) hv]⟩
  case retain q =>
    obtain ⟨rfl, tk, rfl⟩ := rd
    exact ⟨tk.ready, by rw [exec_retain tk, retainBody, withToken_fault (s := s.taken q) hv]⟩
  case describe q =>
    obtain ⟨rfl, tk, rfl⟩ := rd
    exact ⟨tk.ready, by rw [exec_describe tk, describeBody, withToken_fault (s := s.taken q) hv]⟩
  case send q =>
    obtain ⟨rfl, tk, rfl⟩ := rd
    exact ⟨tk.ready, by rw [exec_send tk, sendBody, withToken_fault (s := s.taken q) hv]⟩
  case inspect q =>
    obtain ⟨rfl, tk, ha, hl⟩ := rd
    exact ⟨tk.ready, by rw [exec_inspect tk, inspectBody_fault (s := s.taken q) q ha hl hv]⟩
  case retire q =>
    obtain ⟨rfl, tk, ha, hl, lease⟩ := rd
    exact ⟨tk.ready, by rw [exec_retire tk, retireBody, withHandle_fault (s := s.taken q) ha hl lease hv]⟩
  case restore q =>
    obtain ⟨rfl, tk, ha, hl, lease⟩ := rd
    exact ⟨tk.ready, by rw [exec_restore tk, restoreBody, withHandle_fault (s := s.taken q) ha hl lease hv]⟩
  case take q =>
    obtain ⟨rfl, tk, d, cl, hc, rfl⟩ := rd
    exact ⟨tk.ready, by rw [exec_take tk, takeBody_fault (s := s.taken q) hc e hv]⟩
  case refuse q =>
    obtain ⟨rfl, tk, d, cl, hc, rfl⟩ := rd
    exact ⟨tk.ready, by rw [exec_refuse tk, refuseBody_fault (s := s.taken q) hc e hv]⟩
  case create q =>
    obtain ⟨rfl, tk, lease, ⟨k, ha, hk⟩, hc, hr, hl, hh, below⟩ := rd
    have blocked := firstBlocked_first (s := s.taken q) hl hh below (.inl hv)
    have some : e.arg2.toNat ≠ 0 := fun z => absurd (Nat.lt_of_lt_of_eq hh (by rw [z, Nat.add_zero])) (not_lt.2 hl)
    refine ⟨tk.ready, ?_⟩
    rw [exec_create tk, createBody_over (s := s.taken q) ha lease some hc hr hk,
      createOver_fault (s := s.taken q) q k e blocked hv]
  all_goals exact rd.elim

/-- Settles O21: the ten commands that read a record all answer the fault in one way. -/
theorem checkFaultIsAnswered : Obligations.CheckFaultIsAnswered := by
  intro c s p e h rd hv
  obtain ⟨ready, row⟩ := exec_readsRecord rd hv
  obtain ⟨b, u, path, raised, answered⟩ := answerFault_meets (s := s.taken p) ready p e h
  exact ⟨_, b, u, _, row, taken_meets s p, path, raised, answered⟩

end Sys2Proof.Machine
end

section
/-! PROOFS. The packed words of INSPECT and POOLSTAT (R20, R29), and the passing of handles: SEND, TAKE and REFUSE
(R71 to R82). -/

namespace Sys2Proof.Machine

/-! ### The packed words (Table 10-11) -/

/-- Two fields side by side above the rest of a word. -/
theorem fields_top {a b m : Nat} (x : BitVec a) (y : BitVec b) (z : BitVec m) :
    (x ++ (y ++ z)).extractLsb' m (a + b) = x ++ y := by
  refine BitVec.eq_of_getLsbD_eq fun i hi => ?_
  rw [BitVec.getLsbD_extractLsb', BitVec.getLsbD_append, BitVec.getLsbD_append, BitVec.getLsbD_append]
  have above : ¬ m + i < m := by omega
  rw [if_neg above, Nat.add_sub_cancel_left, decide_eq_true hi, Bool.true_and]
  by_cases hb : i < b
  · rw [if_pos hb, if_pos (by omega)]
  · rw [if_neg hb, if_neg (by omega), show m + i - (b + m) = i - b by omega]

theorem recordWord_fields (r : HandleRec) :
    r.recordWord.extractLsb' 0 2 = r.state.code
      ∧ r.recordWord.extractLsb' 2 3 = BitVec.ofNat 3 r.transit
      ∧ r.recordWord.extractLsb' 5 2 = r.state.reasonCode
      ∧ r.recordWord.extractLsb' 7 5 = 0#5
      ∧ r.recordWord.extractLsb' 12 4 = r.gen := by
  unfold HandleRec.recordWord
  refine ⟨?_, ?_, ?_, ?_, field_top _ _⟩
  · rw [field_low _ _ (by decide), field_low _ _ (by decide), field_low _ _ (by decide)]
    exact BitVec.extractLsb'_append_eq_right
  · rw [field_low _ _ (by decide), field_low _ _ (by decide), field_low _ _ (by decide)]
    exact field_top _ _
  · rw [field_low _ _ (by decide), field_low _ _ (by decide)]
    exact field_top _ _
  · rw [field_low _ _ (by decide)]
    exact field_top _ _

theorem holdsWord_fields (r : HandleRec) (q : Port) :
    r.holdsWord.extractLsb' (4 * q.val) 4 = 0#1 ++ BitVec.ofNat 3 (r.hold q) := by
  unfold HandleRec.holdsWord
  fin_cases q
  · rw [field_low _ _ (by decide), field_low _ _ (by decide), field_low _ _ (by decide), field_low _ _ (by decide),
      field_low _ _ (by decide), field_low _ _ (by decide)]
    exact BitVec.extractLsb'_eq_self
  · rw [field_low _ _ (by decide), field_low _ _ (by decide), field_low _ _ (by decide), field_low _ _ (by decide)]
    exact fields_top _ _ _
  · rw [field_low _ _ (by decide), field_low _ _ (by decide)]
    exact fields_top _ _ _
  · exact fields_top _ _ _

theorem poolWord_fields (q : PoolRec) :
    q.poolWord.extractLsb' 0 2 = q.state.code ∧ q.poolWord.getLsbD 2 = q.recountNeeded
      ∧ q.poolWord.getLsbD 3 = q.recount.isSome
      ∧ q.poolWord.extractLsb' 4 3 = BitVec.ofNat 3 q.waitList.length ∧ q.poolWord.extractLsb' 7 9 = 0#9 := by
  unfold PoolRec.poolWord
  refine ⟨?_, ?_, ?_, ?_, field_top _ _⟩
  · rw [field_low _ _ (by decide), field_low _ _ (by decide), field_low _ _ (by decide)]
    exact BitVec.extractLsb'_append_eq_right
  · rw [bit_low _ _ (by decide), bit_low _ _ (by decide), bit_low _ _ (by decide)]
    exact flag_top _ _
  · rw [bit_low _ _ (by decide), bit_low _ _ (by decide)]
    exact flag_top _ _
  · rw [field_low _ _ (by decide)]
    exact field_top _ _

/-! ### INSPECT and POOLSTAT (R20, R29) -/

theorem inspectBody_badArg (s : State) (p : Port) {e : Entry} (ha : 4096 ≤ e.arg0.toNat) :
    inspectBody p e s = s.answer p e .badArg := by
  simp [inspectBody, handleArg_none ha]

theorem inspectBody_reports {s : State} (p : Port) {e : Entry} (hl : e.arg0.toNat < 4096)
    (hv : (s.record e.arg0.toNat).verifies = true) :
    inspectBody p e s = s.answer p e .ok
      { res1 := (s.record e.arg0.toNat).recordWord, res2 := (s.record e.arg0.toNat).holdsWord
        res3 := (s.record e.arg0.toNat).length, res4 := (s.record e.arg0.toNat).tag } := by
  simp [inspectBody, handleArg_of rfl hl, hv]

/-- Settles O20: the record is reported in the two words, field by field. -/
theorem inspectReports : Obligations.InspectReports := by
  intro s p e tk
  refine ⟨fun ha => answersOnly_of_body (exec_inspect tk) (inspectBody_badArg _ _ ha), fun hl hv => ?_⟩
  obtain ⟨state, transit, reason, spare, gen⟩ := recordWord_fields (s.record e.arg0.toNat)
  refine ⟨_, answersOnly_of_body (exec_inspect tk) (inspectBody_reports (s := s.taken p) p hl hv), ?_, transit, ?_,
    spare, gen, holdsWord_fields (s.record e.arg0.toNat), rfl, rfl⟩
  · refine state.trans ?_
    cases (s.record e.arg0.toNat).state <;> rfl
  · refine reason.trans ?_
    rcases (s.record e.arg0.toNat).state with _ | _ | _ | ⟨_, _ | _⟩ <;> rfl

theorem poolstatBody_badArg (s : State) (p : Port) {e : Entry} (ha : 16 ≤ e.arg0.toNat) :
    poolstatBody p e s = s.answer p e .badArg := by
  simp [poolstatBody, poolArg_none ha]

theorem poolstatBody_first {s : State} (p : Port) {e : Entry} {k : PoolId} (ha : e.arg0.toNat = k.val)
    (hf : e.flagA = false) :
    poolstatBody p e s = s.answer p e .ok
      { res1 := (s.pool k).poolWord, res2 := word (s.pool k).depth, res3 := word (s.pool k).charge[p]
        res4 := word (s.pool k).quota[p] } := by
  simp [poolstatBody, poolArg_of ha, hf]

theorem poolstatBody_second {s : State} (p : Port) {e : Entry} {k : PoolId} (ha : e.arg0.toNat = k.val)
    (hf : e.flagA = true) :
    poolstatBody p e s = s.answer p e .ok
      { res1 := word (s.pool k).first, res2 := word (s.pool k).count, res3 := word (s.pool k).retired } := by
  simp [poolstatBody, poolArg_of ha, hf]

/-- Settles O28: flag A selects the page. -/
theorem poolstatReports : Obligations.PoolstatReports := by
  refine fun s p e tk => ⟨fun ha => answersOnly_of_body (exec_poolstat tk) (poolstatBody_badArg _ _ ha),
    fun k ha => ⟨fun hf => ?_, fun hf => answersOnly_of_body (exec_poolstat tk) (poolstatBody_second p ha hf)⟩⟩
  obtain ⟨state, fields⟩ := poolWord_fields (s.pool k)
  refine ⟨_, answersOnly_of_body (exec_poolstat tk) (poolstatBody_first (s := s.taken p) p ha hf), ?_, fields⟩
  refine state.trans ?_
  cases (s.pool k).state <;> rfl

/-! ### SEND (R72 to R74) -/

/-- One port record is changed after other records have been. -/
theorem Becomes.thenMember {s u : State} {re : HandleNo → HandleRec} {po : PoolId → PoolRec} {wi : Port → Window}
    {le : Lease} {fc : Nat} {lg : Port} (b : Becomes s u re po s.member wi le fc lg) (x : Port)
    (f : Member → Member) :
    Becomes s (u.updMember x f) re po (changeAt s.member x (f (s.member x))) wi le fc lg := by
  refine ⟨b.same, b.record, b.pool, fun q => ?_, b.window, b.lease, b.faultCount, b.lastGranted⟩
  rw [updMember_member, b.member, b.member]
  rfl

section
variable {s : State} {p x : Port} {e : Entry}

theorem sendChecks_passed (h : HandleNo) (k : PoolId) (ha : e.arg1.toNat = x.val) (hx : x ≠ p)
    (ho : (s.member x).membership = .online) (hs : (s.member x).inbound.size < 32) (ht : (s.record h).transit ≠ 7) :
    sendChecks p e s h k = sendTo p x e s h k := by
  simp only [sendChecks, portArg_of ha, hx, isOnline_of ho, not_le.2 hs, ht, if_false, Bool.not_true,
    Bool.false_eq_true]

end

theorem sendTo_eq {s : State} (p x : Port) (e : Entry) (h : HandleNo) (k : PoolId) {left : Nat}
    (hl : left = if e.flagA then (s.record h).hold p else (s.record h).hold p - 1) :
    sendTo p x e s h k
      = (((if left = 0 then s.lowerCharge k h p else s).writeRecord h
            { (s.record h).setHold p left with transit := (s.record h).transit + 1 }).updMember x fun m =>
              { m with
                inbound := m.inbound.join ⟨e.arg0, p, .sent⟩
                  (if e.flagB then .urgent else .normal) }).answer p e .ok
          { res1 := word left, res2 := word ((s.record h).transit + 1)
            res3 := word ((s.member x).inbound.size + 1) } := by
  have member : ((if left = 0 then s.lowerCharge k h p else s).writeRecord h
      { (s.record h).setHold p left with transit := (s.record h).transit + 1 }).member x = s.member x := by
    split <;> rfl
  unfold sendTo
  dsimp only
  rw [← hl, addDelivery_member_self, member, join_size]
  rfl

/-- Settles O22: past its checks SEND writes the record, lowers the charge of a sender left without a hold, and
puts the delivery into the receiver's queue. -/
theorem sendPlacesADelivery : Obligations.SendPlacesADelivery := by
  intro s p x e h k left tk v hp ha hx ho hs ht hl
  have row := exec_send tk
  rw [sendBody, taken_withToken v hp, sendChecks_passed (s := s.taken p) h k ha hx ho hs ht] at row
  rw [sendTo_eq (s := s.taken p) p x e h k hl] at row
  exact ⟨_, row, becomes_answered ((charged_meets (s := s.taken p) tk.ready k h p (· - 1)
    (r := { (s.record h).setHold p left with transit := (s.record h).transit + 1 }) v.2.1 left).thenMember x
      fun m => { m with inbound := m.inbound.join ⟨e.arg0, p, .sent⟩ (if e.flagB then .urgent else .normal) })
    e .ok _⟩

/-! ### TAKE (R77) -/

section
variable {s : State} {p : Port} {d : Delivery} {cl : DeliveryClass}

theorem takeBody_accepts (hc : (s.member p).inbound.chosen = some (d, cl)) (e : Entry)
    (hv : (s.record (tokenHandle d.token)).verifies = true) (hp : (s.record (tokenHandle d.token)).hold p ≠ 7) :
    takeBody p e s = acceptDelivery p e s d cl := by
  simp [takeBody, hc, hv, hp]

theorem refuseBody_returns (hc : (s.member p).inbound.chosen = some (d, cl)) (e : Entry)
    (hv : (s.record (tokenHandle d.token)).verifies = true) (hr : returnable s d = true) :
    refuseBody p e s = returnDelivery p e s d cl := by
  simp [refuseBody, hc, hv, hr]

theorem refuseBody_drops (hc : (s.member p).inbound.chosen = some (d, cl)) (e : Entry)
    (hv : (s.record (tokenHandle d.token)).verifies = true) (hr : returnable s d = false) :
    refuseBody p e s = dropDelivery p e s d cl := by
  simp [refuseBody, hc, hv, hr]

end

theorem acceptDelivery_eq {s : State} (p : Port) (e : Entry) (d : Delivery) (cl : DeliveryClass) {k : PoolId}
    (hk : (s.record (tokenHandle d.token)).state = .inUse k) :
    acceptDelivery p e s d cl
      = (((if (s.record (tokenHandle d.token)).hold p = 0 then s.raiseCharge k (tokenHandle d.token) p
            else s).writeRecord (tokenHandle d.token)
              { (s.record (tokenHandle d.token)).setHold p ((s.record (tokenHandle d.token)).hold p + 1) with
                transit := (s.record (tokenHandle d.token)).transit - 1 }).popDelivery p).answer p e .ok
          { res1 := d.token, res2 := deliveryWord d cl ((s.record (tokenHandle d.token)).hold p + 1)
            res3 := (s.record (tokenHandle d.token)).length, res4 := (s.record (tokenHandle d.token)).tag } := by
  simp only [acceptDelivery, hk, HandleState.pool?]
  split <;> rfl

/-- Settles O23: the charge rises where the port did not hold the handle before. -/
theorem takeAcceptsTheDelivery : Obligations.TakeAcceptsTheDelivery := by
  rintro s p e d cl _ k tk hc rfl hv hk hp
  have row := exec_take tk
  rw [takeBody_accepts (s := s.taken p) hc e hv hp, acceptDelivery_eq (s := s.taken p) p e d cl hk] at row
  exact ⟨_, row, becomes_answered ((charged_meets (s := s.taken p) tk.ready k (tokenHandle d.token) p (· + 1)
    (r := { (s.record (tokenHandle d.token)).setHold p ((s.record (tokenHandle d.token)).hold p + 1) with
      transit := (s.record (tokenHandle d.token)).transit - 1 }) hv
    ((s.record (tokenHandle d.token)).hold p)).thenMember p fun m => { m with inbound := m.inbound.tail }) e .ok _⟩

/-! ### REFUSE (R80 to R82) -/

theorem returnable_iff (s : State) (d : Delivery) : returnable s d = true ↔
    d.kind = .sent ∧ (s.member d.sender).membership = .online ∧ (s.member d.sender).inbound.size < 32 := by
  simp [returnable, State.isOnline, and_assoc]

/-- Settles O24: the delivery leaves one queue and joins the other. -/
theorem refuseReturnsTheDelivery : Obligations.RefuseReturnsTheDelivery := by
  intro s p x e w cl tk hc hv ho hs left
  have back : returnable (s.taken p) ⟨w, x, .sent⟩ = true := (returnable_iff _ _).2 ⟨rfl, ho, hs⟩
  refine ⟨_, (exec_refuse tk).trans (by rw [refuseBody_returns (s := s.taken p) hc e hv back]), ?_⟩
  have popped : ((s.taken p).popDelivery p).member = left := funext fun q => popDelivery_member (s.taken p) p q
  have joined := (updMember_meets ((s.taken p).popDelivery p) x
    fun m => { m with inbound := m.inbound.join ⟨w, p, .returned⟩ cl }).member
  rw [popped] at joined
  exact becomes_of_answer rfl (SameDevice.refl s) (fun _ => rfl) (fun _ => rfl) joined (fun _ => rfl) rfl rfl rfl

/-- Settles O25: the transit falls, and the handle is disposed if nothing else refers to it. -/
theorem refuseDropsTheDelivery : Obligations.RefuseDropsTheDelivery := by
  rintro s p e d cl _ tk hc rfl hv hr
  have stays : returnable (s.taken p) d = false := by
    rw [Bool.eq_false_iff, Ne, returnable_iff]
    rintro ⟨kind, online, room⟩
    rcases hr with hr | hr | hr
    · rw [kind] at hr; cases hr
    · exact hr online
    · exact absurd hr (not_le.2 room)
  have lowered := (writeRecord_meets (s := s.taken p) tk.ready (tokenHandle d.token)
    (r := { s.record (tokenHandle d.token) with transit := (s.record (tokenHandle d.token)).transit - 1 })
      hv).thenMember p fun m => { m with inbound := m.inbound.tail }
  exact ⟨_, _, _, _, (exec_refuse tk).trans (by rw [refuseBody_drops (s := s.taken p) hc e hv stays]; rfl),
    becomes_taken lowered, disposeIfDone_meets (lowered.device.trans tk.ready) _, answer_meets _ p e .dropped _⟩

end Sys2Proof.Machine
end

section
/-! PROOFS. Pools and their commands: CREATE (R26, R27), QUOTA (R28), WATCH (R32), CLOSE (R36, R37), RECOUNT (R86),
RETIRE of a handle in use (R44) and RESTORE (R45). -/

namespace Sys2Proof.Machine

/-! ### One change of the records after another -/

section
variable {s u : State} {re : HandleNo → HandleRec} {po : PoolId → PoolRec} {me : Port → Member} {wi : Port → Window}
  {le : Lease} {fc : Nat} {lg : Port}

/-- A handle record is written after other records have been changed. -/
theorem Becomes.thenRecord (b : Becomes s u s.record po me wi le fc lg) (hd : u.device = .ready) (h : HandleNo)
    {r : HandleRec} (hr : r.verifies = true) :
    Becomes s (u.writeRecord h r) (changeAt s.record h r) po me wi le fc lg := by
  refine ⟨b.same, fun j => ?_, b.pool, b.member, b.window, b.lease, b.faultCount, b.lastGranted⟩
  rw [(writeRecord_meets hd h hr).record]
  unfold changeAt
  split
  · rfl
  · exact b.record j

/-- A pool record is changed again. -/
theorem Becomes.thenPool {k : PoolId} {q : PoolRec} (b : Becomes s u re (changeAt s.pool k q) me wi le fc lg)
    (f : PoolRec → PoolRec) : Becomes s (u.updPool k f) re (changeAt s.pool k (f q)) me wi le fc lg := by
  refine ⟨b.same, b.record, fun j => ?_, b.member, b.window, b.lease, b.faultCount, b.lastGranted⟩
  rw [(updPool_meets u k f).pool, b.pool, changeAt_self]
  by_cases hj : j = k
  · subst hj; rw [changeAt_self, changeAt_self]
  · rw [changeAt_ne _ hj, changeAt_ne _ hj, b.pool, changeAt_ne _ hj]

/-- The deliveries that name a handle go after other records have been changed. -/
theorem Becomes.thenRemove (b : Becomes s u re po s.member wi le fc lg) (h : HandleNo) :
    Becomes s (u.removeDeliveries h) re po
      (fun x => { s.member x with inbound := (s.member x).inbound.without h }) wi le fc lg := by
  refine ⟨b.same, b.record, b.pool, fun q => ?_, b.window, b.lease, b.faultCount, b.lastGranted⟩
  rw [removeDeliveries_member, b.member]

end

/-- A command that changes its port's window before it is answered. -/
theorem becomes_answered_window {s u : State} {p : Port} {re : HandleNo → HandleRec} {po : PoolId → PoolRec}
    {me : Port → Member} {v : Window} {le : Lease} {fc : Nat}
    (b : Becomes (s.taken p) u re po me (changeAt (s.taken p).window p v) le fc p) (e : Entry) (st : Status)
    (d : Data) : Becomes s (u.answer p e st d) re po me (changeAt s.window p (v.posted e st d)) le fc p := by
  refine ⟨b.same, b.record, b.pool, b.member, fun q => ?_, b.lease, b.faultCount, b.lastGranted⟩
  by_cases hq : q = p
  · subst hq
    rw [answer_window_self, b.window, changeAt_self, changeAt_self]
    rfl
  · rw [answer_window_ne _ _ _ _ hq, b.window, changeAt_ne _ hq, changeAt_ne _ hq, taken_window_ne _ hq]

/-! ### CREATE (R27) -/

theorem freeAll_updPool_meets {s : State} (hd : s.device = .ready) (k : PoolId) (first count : Nat)
    (f : PoolRec → PoolRec) :
    Becomes s ((s.freeAll k (List.range' first count)).updPool k f)
      (record := fun h => if first ≤ h ∧ h < first + count then HandleRec.blank (.free k) (s.record h).gen
        else s.record h)
      (pool := changeAt s.pool k (f (s.pool k))) := by
  refine ⟨?_, fun h => ?_, fun j => ?_, fun q => ?_, fun q => ?_, ?_, ?_, ?_⟩
  · exact ⟨by simp, by simp, by simp, by simp, by simp, by simp⟩
  · rw [updPool_record, freeAll_record hd k _ List.nodup_range']
    simp only [List.mem_range'_1]
  · rw [(updPool_meets _ k f).pool, freeAll_pool]
    unfold changeAt
    split
    · rfl
    · exact freeAll_pool s k j _
  · rw [updPool_member, freeAll_member]
  · rw [updPool_window, State.window, freeAll_windows, ← State.window]
  · simp
  · simp
  · simp

theorem createOver_free {s : State} (p : Port) (k : PoolId) {first count : Nat} (e : Entry)
    (hf : ∀ h, first ≤ h → h < first + count → (s.record h).verifies = true ∧ (s.record h).state = .unassigned) :
    createOver p k first count e s
      = ((s.freeAll k (List.range' first count)).updPool k fun _ => .created first count).answer p e .ok := by
  have clear : s.firstBlocked (List.range' first count) = none := by
    refine List.find?_eq_none.2 fun h hm => ?_
    obtain ⟨hv, hs⟩ := hf h (List.mem_range'_1.1 hm).1 (List.mem_range'_1.1 hm).2
    simp [hv, hs]
  simp only [createOver, clear]

/-- Settles O26: every record of the range is UNASSIGNED, so CREATE frees it and makes the pool record. -/
theorem createConfiguresThePool : Obligations.CreateConfiguresThePool := by
  rintro s p e k _ _ tk lease ha rfl rfl h1 hc hr hk hf
  have row := exec_create tk
  rw [createBody_over (s := s.taken p) ha lease (by omega) hc hr hk, createOver_free (s := s.taken p) p k e hf] at row
  exact ⟨_, row, becomes_answered (freeAll_updPool_meets (s := s.taken p) tk.ready k _ _ _) e .ok _⟩

/-! ### QUOTA (R28) -/

section
variable {s : State} {p x : Port} {e : Entry} {k : PoolId}

theorem quotaBody_badArg (s : State) (p : Port) {e : Entry}
    (h : 16 ≤ e.arg0.toNat ∨ 4 ≤ e.arg1.toNat ∨ 4096 < e.arg2.toNat) : quotaBody p e s = s.answer p e .badArg := by
  unfold quotaBody
  split
  · next k t hk ht =>
    have quota : 4096 < e.arg2.toNat := by
      rcases h with h | h | h
      · rw [poolArg_none h] at hk; cases hk
      · rw [portArg_none h] at ht; cases ht
      · exact h
    exact if_pos quota
  all_goals rfl

theorem quotaBody_reads (ha : e.arg0.toNat = k.val) (hx : e.arg1.toNat = x.val) (hq : e.arg2.toNat ≤ 4096) :
    quotaBody p e s
      = if !s.holdsLease p then s.answer p e .noLease
        else if (s.pool k).state = .unconfigured then s.answer p e .noPool
        else (s.updPool k fun q => { q with quota := q.quota.set x.val e.arg2.toNat x.isLt }).answer p e .ok
          { res1 := word (s.pool k).charge[x], res2 := word (s.pool k).quota[x] } := by
  simp only [quotaBody, poolArg_of ha, portArg_of hx, not_lt.2 hq, if_false]

end

/-- Settles O27: the arguments, the lease and the pool are checked in turn, and then the quota is replaced. -/
theorem quotaIsReplaced : Obligations.QuotaIsReplaced := by
  refine fun s p e tk => ⟨fun h => answersOnly_of_body (exec_quota tk) (quotaBody_badArg _ p h),
    fun k x ha hx hq => ?_⟩
  have reads := quotaBody_reads (s := s.taken p) (p := p) ha hx hq
  refine ⟨fun lease => ?noLease, fun lease hk => ?noPool, fun lease hk => ?replaced⟩
  case noLease => exact answersOnly_of_body (exec_quota tk) (by rw [reads]; simp [holdsLease_not lease])
  case noPool => exact answersOnly_of_body (exec_quota tk) (by rw [reads]; simp [holdsLease_of lease, hk])
  case replaced =>
    have row := exec_quota tk
    rw [reads, if_neg (by simp [holdsLease_of lease]),
      if_neg (show ((s.taken p).pool k).state ≠ .unconfigured from hk)] at row
    exact ⟨_, row, becomes_answered (updPool_meets (s.taken p) k _) e .ok _⟩

/-! ### WATCH (R32, R33) -/

section
variable {s : State} {p : Port} {e : Entry} {k : PoolId}

theorem watchBody_badArg (s : State) (p : Port) {e : Entry} (ha : 16 ≤ e.arg0.toNat) :
    watchBody p e s = s.answer p e .badArg := by
  simp [watchBody, poolArg_none ha]

theorem watchBody_unconfigured (ha : e.arg0.toNat = k.val) (hk : (s.pool k).state = .unconfigured) :
    watchBody p e s = s.answer p e .noPool := by
  simp only [watchBody, poolArg_of ha, hk]

theorem watchBody_draining (ha : e.arg0.toNat = k.val) (hk : (s.pool k).state = .draining) :
    watchBody p e s = s.answer p e .poolDraining := by
  simp only [watchBody, poolArg_of ha, hk]

theorem watchBody_outside (ha : e.arg0.toNat = k.val) (hk : (s.pool k).state = .active)
    (hn : e.arg1.toNat = 0 ∨ (s.pool k).count < e.arg1.toNat) : watchBody p e s = s.answer p e .badArg := by
  simp only [watchBody, poolArg_of ha, hk, hn, if_true]

theorem watchBody_active (ha : e.arg0.toNat = k.val) (hk : (s.pool k).state = .active) (h1 : 1 ≤ e.arg1.toNat)
    (hn : e.arg1.toNat ≤ (s.pool k).count) : watchBody p e s = armWatch p k e.arg1.toNat e s := by
  have inside : ¬ (e.arg1.toNat = 0 ∨ (s.pool k).count < e.arg1.toNat) := by omega
  simp only [watchBody, poolArg_of ha, hk, inside, if_false]

end

theorem armWatch_arms {s : State} {k : PoolId} {n : Nat} (hn : (s.pool k).depth < n) (p : Port) (e : Entry) :
    armWatch p k n e s
      = (s.updPool k fun q => { q with watches := q.watches.set p.val (some n) p.isLt }).answer p e .ok
          { res1 := 1, res2 := word (s.pool k).depth } :=
  if_neg (not_le.2 hn)

theorem armWatch_fires {s : State} {k : PoolId} {n : Nat} (hn : n ≤ (s.pool k).depth) (p : Port) (e : Entry) :
    armWatch p k n e s
      = ((s.updPool k fun q => { q with watches := q.watches.set p.val (some n) p.isLt }).fireWatch k p).answer p e
          .ok { res1 := 2, res2 := word (s.pool k).depth } :=
  if_pos hn

/-- A watch armed and fired at once ends disarmed, whatever it was before. -/
theorem armed_fireWatch_meets (s : State) (k : PoolId) (p : Port) (n : Nat) :
    Becomes s ((s.updPool k fun q => { q with watches := q.watches.set p.val (some n) p.isLt }).fireWatch k p)
      (pool := changeAt s.pool k { s.pool k with watches := (s.pool k).watches.set p.val none p.isLt })
      (window := changeAt s.window p ((s.window p).fired k)) := by
  have b := fireWatch_meets (s.updPool k fun q => { q with watches := q.watches.set p.val (some n) p.isLt }) k p
  refine ⟨SameDevice.refl s, fun _ => rfl, fun j => ?_, fun _ => rfl, b.window, rfl, rfl, rfl⟩
  rw [b.pool, updPool_pool_self, Vector.set_set]
  unfold changeAt
  split
  · rfl
  · next hj => exact updPool_pool_ne s _ hj

/-- Settles O29: the watch is refused, armed, or armed and fired at once. -/
theorem watchArmsOrFires : Obligations.WatchArmsOrFires := by
  refine fun s p e tk => ⟨fun ha => answersOnly_of_body (exec_watch tk) (watchBody_badArg _ p ha), ?_⟩
  rintro k _ ha rfl
  refine ⟨fun hk => ?noPool, fun hk => ?draining, fun hk hn => ?outside, fun hk h1 hn hd => ?armed,
    fun hk h1 hn hd => ?fired⟩
  case noPool => exact answersOnly_of_body (exec_watch tk) (watchBody_unconfigured (s := s.taken p) ha hk)
  case draining => exact answersOnly_of_body (exec_watch tk) (watchBody_draining (s := s.taken p) ha hk)
  case outside => exact answersOnly_of_body (exec_watch tk) (watchBody_outside (s := s.taken p) ha hk hn)
  case armed =>
    have row := exec_watch tk
    rw [watchBody_active (s := s.taken p) ha hk h1 hn, armWatch_arms (s := s.taken p) hd] at row
    exact ⟨_, row, becomes_answered (updPool_meets (s.taken p) k _) e .ok _⟩
  case fired =>
    have row := exec_watch tk
    rw [watchBody_active (s := s.taken p) ha hk h1 hn, armWatch_fires (s := s.taken p) hd] at row
    have fired := armed_fireWatch_meets (s.taken p) k p e.arg1.toNat
    rw [taken_window_self] at fired
    exact ⟨_, row, becomes_answered_window fired e .ok _⟩

/-! ### CLOSE (R36, R37) -/

section
variable {s : State} {p : Port} {e : Entry} {k : PoolId}

theorem closeBody_badArg (s : State) (p : Port) {e : Entry} (ha : 16 ≤ e.arg0.toNat) :
    closeBody p e s = s.answer p e .badArg := by
  simp [closeBody, poolArg_none ha]

theorem closeBody_unconfigured (ha : e.arg0.toNat = k.val) (lease : HoldsLease s p)
    (hk : (s.pool k).state = .unconfigured) : closeBody p e s = s.answer p e .noPool := by
  simp only [closeBody, poolArg_of ha, holdsLease_of lease, hk, Bool.not_true, Bool.false_eq_true, if_false]

theorem closeBody_draining (ha : e.arg0.toNat = k.val) (lease : HoldsLease s p)
    (hk : (s.pool k).state = .draining) : closeBody p e s = s.answer p e .poolDraining := by
  simp only [closeBody, poolArg_of ha, holdsLease_of lease, hk, Bool.not_true, Bool.false_eq_true, if_false]

theorem closeBody_active (ha : e.arg0.toNat = k.val) (lease : HoldsLease s p)
    (hk : (s.pool k).state = .active) : closeBody p e s = closeActive p k e s := by
  simp only [closeBody, poolArg_of ha, holdsLease_of lease, hk, Bool.not_true, Bool.false_eq_true, if_false]

end

/-- The state in which CLOSE tests the pool: its waiters are answered, and it is DRAINING (R37 steps 1 to 3). -/
def State.closingPool (s : State) (k : PoolId) : State :=
  (s.turnAwayAll (s.pool k).waitList).updPool k PoolRec.closing

theorem closingPool_pool_self (s : State) (k : PoolId) : (s.closingPool k).pool k = (s.pool k).closing := by
  rw [State.closingPool, updPool_pool_self, State.pool, turnAwayAll_pools, ← State.pool]

theorem closingPool_meets (s : State) (k : PoolId) :
    Becomes s (s.closingPool k) (pool := changeAt s.pool k (s.pool k).closing)
      (window := fun x => ((s.pool k).waitList.filter fun v => decide (v.port = x)).foldl
        (fun w v => w.deferred v .poolDraining {}) (s.window x)) := by
  have pools : ∀ j, (s.turnAwayAll (s.pool k).waitList).pool j = s.pool j := fun j => by
    rw [State.pool, turnAwayAll_pools, ← State.pool]
  refine ⟨?_, fun h => ?_, fun j => ?_, fun q => ?_, fun x => ?_, ?_, ?_, ?_⟩
  · exact ⟨by simp [State.closingPool], by simp [State.closingPool], by simp [State.closingPool],
      by simp [State.closingPool], by simp [State.closingPool], by simp [State.closingPool]⟩
  · simp [State.closingPool, State.record]
  · rw [State.closingPool, updPool_pool, pools, pools]
    rfl
  · simp [State.closingPool]
  · rw [State.closingPool, updPool_window, turnAwayAll_window]
  · simp [State.closingPool]
  · simp [State.closingPool]
  · simp [State.closingPool]

theorem closing_drained (q : PoolRec) : q.closing.drained = true ↔ q.depth + q.retired = q.count := by
  rw [drained_iff]
  exact and_iff_right rfl

theorem closeActive_drained {s : State} {k : PoolId} (h : (s.pool k).depth + (s.pool k).retired = (s.pool k).count)
    (p : Port) (e : Entry) : closeActive p k e s
      = ((s.closingPool k).teardown k).answer p e .ok { res1 := 2, res2 := 0 } := by
  have none : word ((s.pool k).closing.count - (s.pool k).closing.depth - (s.pool k).closing.retired) = 0 := by
    rw [show (s.pool k).closing.count - (s.pool k).closing.depth - (s.pool k).closing.retired = 0 from ?_]
    · rfl
    · change (s.pool k).count - (s.pool k).depth - (s.pool k).retired = 0
      omega
  rw [closeActive, ← State.closingPool, closingPool_pool_self, if_pos ((closing_drained _).2 h), none]
  rfl

theorem closeActive_draining {s : State} {k : PoolId} (h : (s.pool k).depth + (s.pool k).retired ≠ (s.pool k).count)
    (p : Port) (e : Entry) : closeActive p k e s
      = ((s.closingPool k).updPool k fun q => { q with closer := some p }).answer p e .ok
          { res1 := 1, res2 := word ((s.pool k).count - (s.pool k).depth - (s.pool k).retired) } := by
  rw [closeActive, ← State.closingPool, closingPool_pool_self, if_neg (fun c => h ((closing_drained _).1 c))]
  rfl

/-- Settles O31: the waiters are answered first, and then the pool drains or is torn down. -/
theorem closeDrainsOrTearsDown : Obligations.CloseDrainsOrTearsDown := by
  refine fun s p e tk => ⟨fun ha => answersOnly_of_body (exec_close tk) (closeBody_badArg _ p ha),
    fun k ha lease => ⟨fun hk => ?noPool, fun hk => ?draining, fun hk => ?active⟩⟩
  case noPool => exact answersOnly_of_body (exec_close tk) (closeBody_unconfigured (s := s.taken p) ha lease hk)
  case draining => exact answersOnly_of_body (exec_close tk) (closeBody_draining (s := s.taken p) ha lease hk)
  case active =>
    have row := exec_close tk
    rw [closeBody_active (s := s.taken p) ha lease hk] at row
    have closing := closingPool_meets (s.taken p) k
    have windows : Becomes s ((s.taken p).closingPool k) (pool := changeAt s.pool k (s.pool k).closing)
        (window := fun x => ((s.pool k).waitList.filter fun v => decide (v.port = x)).foldl
          (fun w v => w.deferred v .poolDraining {}) (if x = p then (s.window p).dequeued else s.window x))
        (lastGranted := p) := by
      refine ⟨closing.same, closing.record, closing.pool, closing.member, fun x => ?_, closing.lease,
        closing.faultCount, closing.lastGranted⟩
      rw [closing.window, taken_window]
      rfl
    by_cases hc : (s.pool k).depth + (s.pool k).retired = (s.pool k).count
    · rw [closeActive_drained (s := s.taken p) hc] at row
      exact ⟨_, _, _, row, windows, fun _ => ⟨teardown_meets (closing.device.trans tk.ready) k,
        answer_meets _ p e .ok _⟩, fun hn => absurd hc hn⟩
    · rw [closeActive_draining (s := s.taken p) hc] at row
      exact ⟨_, _, _, row, windows, fun h => absurd h hc, fun _ => ⟨updPool_meets _ k _, answer_meets _ p e .ok _⟩⟩

/-! ### RECOUNT (R86) -/

theorem recountBody_badArg (s : State) (p : Port) {e : Entry} (ha : 16 ≤ e.arg0.toNat) :
    recountBody p e s = s.answer p e .badArg := by
  simp [recountBody, poolArg_none ha]

theorem recountBody_reads {s : State} {p : Port} {e : Entry} {k : PoolId} (ha : e.arg0.toNat = k.val) :
    recountBody p e s
      = if !s.holdsLease p then s.answer p e .noLease
        else if (s.pool k).state = .unconfigured then s.answer p e .noPool
        else if (s.pool k).recount.isSome then s.answer p e .recountBusy
        else (s.updPool k fun q => { q with recount := some (.start q.first p) }).answer p e .ok
          { res1 := word (((s.pool k).count + 15) / 16), res2 := flagWord (s.pool k).recountNeeded } := by
  simp only [recountBody, poolArg_of ha]

/-- Settles O32: the lease, the pool and a running recount are checked in turn, and then the recount starts. -/
theorem recountStarts : Obligations.RecountStarts := by
  refine fun s p e tk => ⟨fun ha => answersOnly_of_body (exec_recount tk) (recountBody_badArg _ p ha),
    fun k ha => ?_⟩
  have reads := recountBody_reads (s := s.taken p) (p := p) ha
  refine ⟨fun lease => ?noLease, fun lease hk => ?noPool, fun lease hk hr => ?busy, fun lease hk hr => ?started⟩
  case noLease => exact answersOnly_of_body (exec_recount tk) (by rw [reads]; simp [holdsLease_not lease])
  case noPool => exact answersOnly_of_body (exec_recount tk) (by rw [reads]; simp [holdsLease_of lease, hk])
  case busy => exact answersOnly_of_body (exec_recount tk) (by rw [reads]; simp [holdsLease_of lease, hk, hr])
  case started =>
    have row := exec_recount tk
    rw [reads, if_neg (by simp [holdsLease_of lease]),
      if_neg (show ((s.taken p).pool k).state ≠ .unconfigured from hk),
      if_neg (show ¬ ((s.taken p).pool k).recount.isSome = true by rw [taken_pool, hr]; simp)] at row
    exact ⟨_, row, becomes_answered (updPool_meets (s.taken p) k _) e .ok _⟩

/-! ### RETIRE of a handle in use (R44), and RESTORE (R45) -/

theorem retireBody_inUse {s : State} {p : Port} {e : Entry} {h : HandleNo} {k : PoolId} (lease : HoldsLease s p)
    (ha : e.arg0.toNat = h) (hl : h < 4096) (hv : (s.record h).verifies = true)
    (hs : (s.record h).state = .inUse k) : retireBody p e s = retireInUse p e s h k := by
  rw [retireBody, withHandle_reads ha hl lease hv, hs]

/-- Settles O34: the charges fall, the record and the deliveries go, the retired count rises, and the drain test
follows. -/
theorem retireWithdrawsAHandleInUse : Obligations.RetireWithdrawsAHandleInUse := by
  intro s p e h k tk lease ha hl hv hs
  have row := exec_retire tk
  rw [retireBody_inUse (s := s.taken p) lease ha hl hv hs] at row
  have lowered := lowerHolders_meets (s.taken p) k h (s.record h)
  have withdrawn := ((lowered.thenRecord (lowered.device.trans tk.ready) h
    (r := .blank (.retired k .admin) ((s.record h).gen + 1)) rfl).thenRemove h).thenPool
      fun q => { q with retired := q.retired + 1 }
  exact ⟨_, _, _, row, becomes_taken withdrawn, drainTest_meets (withdrawn.device.trans tk.ready) k,
    answer_meets _ p e .ok _⟩

theorem restoreBody_retired {s : State} {p : Port} {e : Entry} {h : HandleNo} {k : PoolId} {reason : RetireReason}
    (lease : HoldsLease s p) (ha : e.arg0.toNat = h) (hl : h < 4096) (hv : (s.record h).verifies = true)
    (hs : (s.record h).state = .retired k reason) : restoreBody p e s = restoreHandle p e s h k := by
  rw [restoreBody, withHandle_reads ha hl lease hv, hs]

/-- Settles O35. -/
theorem restoreBringsBack : Obligations.RestoreBringsBack := by
  intro s p e h k reason tk lease ha hl hv hs
  have row := exec_restore tk
  rw [restoreBody_retired (s := s.taken p) lease ha hl hv hs] at row
  have lowered := updPool_meets (s.taken p) k fun q => { q with retired := q.retired - 1 }
  exact ⟨_, _, _, _, row, becomes_taken lowered, dispose_meets (lowered.device.trans tk.ready) h,
    answer_meets _ p e .ok _⟩

end Sys2Proof.Machine
end

section
/-! PROOFS. The rows that the pool engine runs of itself (R33, R39, R53), the reclaim step (R125, R126) and the recount
step (R87, R91). -/

namespace Sys2Proof.Machine

/-! ### GRANT, WATCH_FIRE and DRAIN_COMPLETION (R53, R33, R39) -/

theorem exec_grant_inUse {s : State} (hd : s.device = .ready) {h : Fin 4096} {k : PoolId}
    (hs : (s.record h.val).state = .inUse k) : exec (.grant h) s
      = .next (if (s.record h.val).verifies ∧ (s.record h.val).refs = 0 ∧ (s.pool k).waitList ≠ [] then
          (s.dispose h.val).1 else s) := by
  simp only [exec, execGrant, hd, hs]

theorem exec_grant_notReady {s : State} (hd : s.device ≠ .ready) (h : Fin 4096) : exec (.grant h) s = .next s := by
  rcases hd' : s.device with n | _
  · simp only [exec, execGrant, hd']
  · exact absurd hd' hd

theorem exec_grant_notInUse {s : State} {h : Fin 4096} (hs : (s.record h.val).state.isInUse = false) :
    exec (.grant h) s = .next s := by
  rcases hd : s.device with n | _
  · exact exec_grant_notReady (by simp [hd]) h
  · rcases hr : (s.record h.val).state with _ | k | k | ⟨k, reason⟩
    · simp only [exec, execGrant, hd, hr]
    · simp only [exec, execGrant, hd, hr]
    · rw [hr] at hs; cases hs
    · simp only [exec, execGrant, hd, hr]

theorem exec_grant_idle {s : State} {h : Fin 4096}
    (hn : ∀ k, (s.record h.val).state = .inUse k →
      ¬ ((s.record h.val).verifies ∧ (s.record h.val).refs = 0 ∧ (s.pool k).waitList ≠ [])) :
    exec (.grant h) s = .next s := by
  by_cases hd : s.device = .ready
  · rcases hr : (s.record h.val).state.isInUse with _ | _
    · exact exec_grant_notInUse hr
    · obtain ⟨k, hk⟩ : ∃ k, (s.record h.val).state = .inUse k := by
        rcases hs : (s.record h.val).state with _ | k | k | ⟨k, reason⟩ <;> rw [hs] at hr
        case inUse => exact ⟨k, rfl⟩
        all_goals cases hr
      rw [exec_grant_inUse hd hk, if_neg (hn k hk)]
  · exact exec_grant_notReady hd h

/-- Settles O37: each of the three rows acts under its condition and is idle without it. -/
theorem innerRowsActWhereTheirConditionStands : Obligations.InnerRowsActWhereTheirConditionStands := by
  refine ⟨fun s h k hd hv hs hr hw => ?grants, fun s h k hs hn => ?noGrant, fun s h hn => ?idle,
    fun s k p hf => ?fires, fun s k p hf => ?quiet, fun s k hd => ⟨_, rfl, drainTest_meets hd k⟩⟩
  case grants =>
    refine ⟨_, _, ?_, dispose_meets hd h.val⟩
    rw [exec_grant_inUse hd hs, if_pos ⟨hv, hr, hw⟩]
  case noGrant =>
    refine exec_grant_idle fun j hj ⟨_, hr, hw⟩ => ?_
    rw [hs] at hj
    cases hj
    exact hn.elim (· hr) hw
  case idle =>
    rcases hn with hn | hn | hn
    · exact exec_grant_notInUse hn
    · exact exec_grant_idle fun j _ ⟨hv, _⟩ => by simp [hn] at hv
    · exact exec_grant_notReady hn h
  case fires =>
    refine ⟨_, rfl, ?_⟩
    rw [testWatch_eq, if_pos hf]
    exact fireWatch_meets s k p
  case quiet =>
    change Host.Outcome.next (s.testWatch k p) = _
    rw [testWatch_eq, if_neg (by simp [hf])]

/-! ### The reclaim step (R125, R126) -/

section
variable {s : State} {p : Port}

theorem exec_reclaimStep {n : Nat} (hd : s.device = .ready) (hm : (s.member p).membership = .reclaiming n) :
    exec (.reclaimStep p) s = .next (s.reclaimSlice p n) := by
  simp only [exec, execReclaimStep, hd, hm]

theorem exec_sweepCompletion {n : Nat} (hd : s.device = .ready) (hm : (s.member p).membership = .reclaiming n) :
    exec (.sweepCompletion p) s = .next (if n + 16 < 4096 then s else s.reclaimSlice p n) := by
  simp only [exec, execSweepCompletion, hd, hm]

theorem exec_reclaim_idle (hm : ∀ n, (s.member p).membership ≠ .reclaiming n) :
    exec (.reclaimStep p) s = .next s ∧ exec (.sweepCompletion p) s = .next s := by
  rcases hp : (s.member p).membership with _ | _ | n
  · constructor <;> cases hd : s.device <;> simp only [exec, execReclaimStep, execSweepCompletion, hd, hp]
  · constructor <;> cases hd : s.device <;> simp only [exec, execReclaimStep, execSweepCompletion, hd, hp]
  · exact absurd hp (hm n)

end

/-- Settles O50: a reclaim step is the sweep of its sixteen handles and the move of the pointer. -/
theorem reclaimStepSweepsSixteenHandles : Obligations.ReclaimStepSweepsSixteenHandles := by
  refine ⟨fun s p n hd hm => ?_, fun s p hm => exec_reclaim_idle hm⟩
  refine ⟨_, _, exec_reclaimStep hd hm, sweepAll_meets p _ s hd, updMember_meets _ p _, fun hn => ?_, fun hn => ?_⟩
  · rw [exec_sweepCompletion hd hm, if_pos hn]
  · rw [exec_sweepCompletion hd hm, if_neg (not_lt.2 hn)]

/-! ### The recount step (R87, R91) -/

section
variable {s : State} {k : PoolId}

theorem exec_recountStep {rc : RecountRec} (hd : s.device = .ready) (hr : (s.pool k).recount = some rc) :
    exec (.recountStep k) s = .next (s.recountSlice k rc.pointer) := by
  simp only [exec, execRecountStep, hd, hr]

theorem exec_recountCompletion {rc : RecountRec} (hd : s.device = .ready) (hr : (s.pool k).recount = some rc) :
    exec (.recountCompletion k) s
      = .next (if (s.pool k).sliceEnd rc.pointer = (s.pool k).first + (s.pool k).count then
          s.recountSlice k rc.pointer else s) := by
  simp only [exec, execRecountCompletion, hd, hr]

theorem exec_recount_idle (hr : (s.pool k).recount = none) :
    exec (.recountStep k) s = .next s ∧ exec (.recountCompletion k) s = .next s := by
  constructor <;> cases hd : s.device <;> simp only [exec, execRecountStep, execRecountCompletion, hd, hr]

/-- The state in which a recount step has counted its slice. -/
def State.counted (s : State) (k : PoolId) (pointer : Nat) : State :=
  s.countAll k (List.range' pointer ((s.pool k).sliceEnd pointer - pointer))

theorem recountSlice_gone {n : Nat} (h : ((s.counted k n).pool k).recount = none) :
    s.recountSlice k n = s.counted k n := by
  unfold State.counted at h ⊢
  simp only [State.recountSlice, h]

theorem recountSlice_moves {n : Nat} {rc : RecountRec} (h : ((s.counted k n).pool k).recount = some rc)
    (hn : (s.pool k).sliceEnd n ≠ (s.pool k).first + (s.pool k).count) :
    s.recountSlice k n = (s.counted k n).updPool k fun q =>
      { q with recount := some { rc with pointer := (s.pool k).sliceEnd n } } := by
  unfold State.counted at h ⊢
  simp only [State.recountSlice, h, hn, if_false]

theorem recountSlice_completes {n : Nat} {rc : RecountRec} (h : ((s.counted k n).pool k).recount = some rc)
    (hn : (s.pool k).sliceEnd n = (s.pool k).first + (s.pool k).count) :
    s.recountSlice k n = (s.counted k n).completeRecount k rc := by
  unfold State.counted at h ⊢
  simp only [State.recountSlice, h]
  exact if_pos hn

end

/-- A pool record at the completion of its recount (R91). -/
def PoolRec.completed (q : PoolRec) (rc : RecountRec) : PoolRec :=
  { q with
    charge := rc.shadow
    recountNeeded := rc.disturbed && q.recountNeeded
    recount := none }

theorem completeRecount_untold {rc : RecountRec} (hr : rc.requester = none) (s : State) (k : PoolId) :
    s.completeRecount k rc = s.updPool k (·.completed rc) := by
  simp only [State.completeRecount, PoolRec.completed, hr]
  cases rc.disturbed <;> rfl

theorem completeRecount_told {rc : RecountRec} {p : Port} (hr : rc.requester = some p) (s : State) (k : PoolId) :
    s.completeRecount k rc = (s.updPool k (·.completed rc)).raise p .pool := by
  simp only [State.completeRecount, PoolRec.completed, hr]
  cases rc.disturbed <;> rfl

theorem completeRecount_meets (s : State) (k : PoolId) (rc : RecountRec) :
    Becomes s (s.completeRecount k rc) (pool := changeAt s.pool k ((s.pool k).completed rc))
      (window := fun x => if rc.requester = some x then (s.window x).raised .pool else s.window x) := by
  have pool := (updPool_meets s k (·.completed rc)).pool
  rcases hr : rc.requester with _ | p
  · rw [completeRecount_untold hr]
    exact ⟨SameDevice.refl s, fun _ => rfl, pool, fun _ => rfl, fun x => (if_neg (by simp)).symm, rfl, rfl, rfl⟩
  · rw [completeRecount_told hr]
    refine ⟨SameDevice.refl s, fun _ => rfl, pool, fun _ => rfl, fun x => ?_, rfl, rfl, rfl⟩
    rw [raise_window]
    simp only [Option.some.injEq, updPool_window]
    by_cases hx : x = p
    · rw [if_pos hx, if_pos hx.symm, hx]
    · rw [if_neg hx, if_neg (Ne.symm hx)]

/-- Settles O51: after the slice is counted, the recount has gone, moves on, or completes. -/
theorem recountStepCountsItsSlice : Obligations.RecountStepCountsItsSlice := by
  refine ⟨?_, fun s k hr => exec_recount_idle hr⟩
  rintro s k rc _ _ hd hr rfl rfl
  refine ⟨s.counted k rc.pointer, _, exec_recountStep hd hr, countAll_meets k _ s hd, fun h => recountSlice_gone h,
    fun rc' h hn => ?moves, fun rc' h hn => ?completes, fun hn => ?notYet, fun hn => ?now⟩
  case moves =>
    rw [recountSlice_moves h hn]
    exact updPool_meets _ k _
  case completes =>
    rw [recountSlice_completes h hn]
    exact completeRecount_meets _ k rc'
  case notYet => exact (exec_recountCompletion hd hr).trans (congrArg _ (if_neg hn))
  case now => exact (exec_recountCompletion hd hr).trans (congrArg _ (if_pos hn))

end Sys2Proof.Machine
end

section
/-! PROOFS. The refusals of commands: the lease check (R139) and the checks that each rule lists. -/

namespace Sys2Proof.Machine

/-! ### The lease check (R139) -/

section
variable {s : State} {p : Port} {e : Entry}

theorem createBody_noLease {k : PoolId} (ha : e.arg0.toNat = k.val) (hn : e.arg2.toNat ≠ 0)
    (hc : e.arg2.toNat ≤ 4096) (hr : e.arg1.toNat + e.arg2.toNat ≤ 4096) (hl : ¬ HoldsLease s p) :
    createBody p e s = s.answer p e .noLease := by
  have range : ¬ (e.arg2.toNat = 0 ∨ 4096 < e.arg2.toNat ∨ 4096 < e.arg1.toNat + e.arg2.toNat) := by omega
  simp [createBody, poolArg_of ha, range, holdsLease_not hl]

theorem closeBody_noLease {k : PoolId} (ha : e.arg0.toNat = k.val) (hl : ¬ HoldsLease s p) :
    closeBody p e s = s.answer p e .noLease := by
  simp [closeBody, poolArg_of ha, holdsLease_not hl]

theorem withHandle_noLease (ha : e.arg0.toNat < 4096) (hl : ¬ HoldsLease s p)
    (body : HandleNo → HandleRec → State) : s.withHandle p e body = s.answer p e .noLease := by
  simp [State.withHandle, handleArg_of rfl ha, holdsLease_not hl]

theorem evictBody_noLease {x : Port} (ha : e.arg0.toNat = x.val) (hl : ¬ HoldsLease s p) :
    evictBody p e s = s.answer p e .noLease := by
  simp [evictBody, portArg_of ha, holdsLease_not hl]

end

/-- Settles O36, command by command. -/
theorem leaseCommandsNeedTheLease : Obligations.LeaseCommandsNeedTheLease := by
  intro s p e c code inRange hc tk range lease
  simp only [List.mem_cons, Prod.mk.injEq, List.not_mem_nil, or_false] at hc
  have lease' : ¬ HoldsLease (s.taken p) p := lease
  rcases hc with ⟨rfl, rfl, rfl⟩ | ⟨rfl, rfl, rfl⟩ | ⟨rfl, rfl, rfl⟩ | ⟨rfl, rfl, rfl⟩ | ⟨rfl, rfl, rfl⟩
    | ⟨rfl, rfl, rfl⟩ | ⟨rfl, rfl, rfl⟩
  · obtain ⟨pool, some, count, last⟩ := range
    exact answersOnly_of_body (exec_create tk) (createBody_noLease (k := ⟨_, pool⟩) rfl some count last lease')
  · obtain ⟨pool, port, quota⟩ := range
    exact ((quotaIsReplaced s p e tk).2 ⟨_, pool⟩ ⟨_, port⟩ rfl rfl quota).1 lease
  · exact answersOnly_of_body (exec_close tk) (closeBody_noLease (k := ⟨_, range⟩) rfl lease')
  · exact ((recountStarts s p e tk).2 ⟨_, range⟩ rfl).1 lease
  · exact answersOnly_of_body (exec_retire tk) (withHandle_noLease range lease' _)
  · exact answersOnly_of_body (exec_restore tk) (withHandle_noLease range lease' _)
  · exact answersOnly_of_body (exec_evict tk) (evictBody_noLease (x := ⟨_, range⟩) rfl lease')

/-! ### The checks of each command, one answer after another -/

section
variable {s : State} {p : Port} {e : Entry} {k : PoolId}

theorem allocateBody_badArg (s : State) (p : Port) (ha : 16 ≤ e.arg0.toNat) :
    allocateBody p e s = s.answer p e .badArg := by
  simp [allocateBody, poolArg_none ha]

theorem allocateBody_unconfigured (p : Port) (ha : e.arg0.toNat = k.val) (hk : (s.pool k).state = .unconfigured) :
    allocateBody p e s = s.answer p e .noPool := by
  simp only [allocateBody, poolArg_of ha, hk]

theorem allocateBody_draining (p : Port) (ha : e.arg0.toNat = k.val) (hk : (s.pool k).state = .draining) :
    allocateBody p e s = s.answer p e .poolDraining := by
  simp only [allocateBody, poolArg_of ha, hk]

theorem allocateBody_quota (ha : e.arg0.toNat = k.val) (hk : (s.pool k).state = .active)
    (hq : (s.pool k).quota[p] ≤ (s.pool k).charge[p]) : allocateBody p e s
      = s.answer p e .quota { res1 := word (s.pool k).charge[p], res2 := word (s.pool k).quota[p] } := by
  simp only [allocateBody, poolArg_of ha, hk, hq, if_true]

theorem createBody_badArg (s : State) (p : Port) (h : 16 ≤ e.arg0.toNat ∨ e.arg2.toNat = 0 ∨ 4096 < e.arg2.toNat
    ∨ 4096 < e.arg1.toNat + e.arg2.toNat) : createBody p e s = s.answer p e .badArg := by
  rcases h with h | h
  · simp [createBody, poolArg_none h]
  · rcases hk : poolArg e.arg0 with _ | k <;> simp [createBody, hk, h]

theorem createBody_busy (ha : e.arg0.toNat = k.val) (hn : e.arg2.toNat ≠ 0) (hc : e.arg2.toNat ≤ 4096)
    (hr : e.arg1.toNat + e.arg2.toNat ≤ 4096) (lease : HoldsLease s p) (hk : (s.pool k).state ≠ .unconfigured) :
    createBody p e s = s.answer p e .poolBusy := by
  have range : ¬ (e.arg2.toNat = 0 ∨ 4096 < e.arg2.toNat ∨ 4096 < e.arg1.toNat + e.arg2.toNat) := by omega
  simp [createBody, poolArg_of ha, range, holdsLease_of lease, hk]

theorem createOver_conflict (p : Port) (k : PoolId) {first count h : Nat} (e : Entry)
    (hb : s.firstBlocked (List.range' first count) = some h) (hv : (s.record h).verifies = true) :
    createOver p k first count e s = s.answer p e .rangeConflict { res1 := word h } := by
  simp [createOver, hb, hv]

theorem withHandle_badArg (s : State) (p : Port) (ha : 4096 ≤ e.arg0.toNat) (body : HandleNo → HandleRec → State) :
    s.withHandle p e body = s.answer p e .badArg := by
  simp [State.withHandle, handleArg_none ha]

theorem evictBody_badArg (s : State) (p : Port) (ha : 4 ≤ e.arg0.toNat) :
    evictBody p e s = s.answer p e .badArg := by
  simp [evictBody, portArg_none ha]

theorem evictBody_self (lease : HoldsLease s p) (ha : e.arg0.toNat = p.val) :
    evictBody p e s = s.answer p e .badDest := by
  simp [evictBody, portArg_of ha, holdsLease_of lease]

theorem evictBody_notOnline {x : Port} (lease : HoldsLease s p) (ha : e.arg0.toNat = x.val) (hx : x ≠ p)
    (ho : (s.member x).membership ≠ .online) : evictBody p e s
      = s.answer p e .notOnline { res1 := (s.member x).membership.code.setWidth 16 } := by
  simp [evictBody, portArg_of ha, holdsLease_of lease, hx, isOnline_not ho]

theorem takeBody_empty (hi : (s.member p).inbound = ⟨[], []⟩) : takeBody p e s = s.answer p e .empty := by
  simp only [takeBody, Inbound.chosen_none.2 hi]

theorem takeBody_full {d : Delivery} {cl : DeliveryClass} (hc : (s.member p).inbound.chosen = some (d, cl))
    (hv : (s.record (tokenHandle d.token)).verifies = true) (hp : (s.record (tokenHandle d.token)).hold p = 7) :
    takeBody p e s = s.answer p e .holdLimit { res1 := d.token, res2 := deliveryWord d cl 7 } := by
  simp [takeBody, hc, hv, hp]

theorem refuseBody_empty (hi : (s.member p).inbound = ⟨[], []⟩) : refuseBody p e s = s.answer p e .empty := by
  simp only [refuseBody, Inbound.chosen_none.2 hi]

variable {x : Port} (h : HandleNo) (k : PoolId)

theorem sendChecks_noPort (s : State) (p : Port) (ha : 4 ≤ e.arg1.toNat) :
    sendChecks p e s h k = s.answer p e .badDest := by
  simp [sendChecks, portArg_none ha]

theorem sendChecks_self (s : State) (ha : e.arg1.toNat = p.val) : sendChecks p e s h k = s.answer p e .badDest := by
  simp [sendChecks, portArg_of ha]

theorem sendChecks_offline (ha : e.arg1.toNat = x.val) (hx : x ≠ p) (ho : (s.member x).membership ≠ .online) :
    sendChecks p e s h k = s.answer p e .destOffline := by
  simp [sendChecks, portArg_of ha, hx, isOnline_not ho]

theorem sendChecks_full (ha : e.arg1.toNat = x.val) (hx : x ≠ p) (ho : (s.member x).membership = .online)
    (hs : 32 ≤ (s.member x).inbound.size) : sendChecks p e s h k = s.answer p e .destFull := by
  simp [sendChecks, portArg_of ha, hx, isOnline_of ho, hs]

theorem sendChecks_transit (ha : e.arg1.toNat = x.val) (hx : x ≠ p) (ho : (s.member x).membership = .online)
    (hs : (s.member x).inbound.size < 32) (ht : (s.record h).transit = 7) :
    sendChecks p e s h k = s.answer p e .transitLimit := by
  simp [sendChecks, portArg_of ha, hx, isOnline_of ho, hs, ht]

end

/-- Settles O38, command by command and answer by answer. -/
theorem commandsRefuseInTheirOrder : Obligations.CommandsRefuseInTheirOrder := by
  refine ⟨fun s p e tk => ?allocate, fun s p e tk => ?create, ⟨fun s p e tk => ?retire, fun s p e tk => ?restore⟩,
    fun s p e tk => ?evict, fun s p e h k tk v hp => ?send, fun s p e tk => ?take, fun s p e tk hi => ?refuse⟩
  case allocate =>
    have row := exec_allocate tk
    exact ⟨fun ha => answersOnly_of_body row (allocateBody_badArg _ p ha), fun k ha =>
      ⟨fun hk => answersOnly_of_body row (allocateBody_unconfigured (s := s.taken p) p ha hk),
        fun hk => answersOnly_of_body row (allocateBody_draining (s := s.taken p) p ha hk),
        fun hk hq => answersOnly_of_body row (allocateBody_quota (s := s.taken p) ha hk hq)⟩⟩
  case create =>
    have row := exec_create tk
    refine ⟨fun h => answersOnly_of_body row (createBody_badArg _ p h), fun k ha hn hc hr lease =>
      ⟨fun hk => answersOnly_of_body row (createBody_busy (s := s.taken p) ha hn hc hr lease hk),
        fun h hk hl hh below hv hs => answersOnly_of_body row ?_⟩⟩
    rw [createBody_over (s := s.taken p) ha lease hn hc hr hk]
    exact createOver_conflict (s := s.taken p) p k e (firstBlocked_first (s := s.taken p) hl hh below (.inr hs)) hv
  case retire =>
    refine ⟨fun ha => answersOnly_of_body (exec_retire tk) (withHandle_badArg _ p ha _), fun h ha hl lease hv =>
      ⟨fun hs => ?_, fun k reason hs => ?_⟩⟩
    · refine answersOnly_of_body (exec_retire tk) ?_
      rw [retireBody, withHandle_reads (s := s.taken p) ha hl lease hv, taken_record, hs]
    · refine answersOnly_of_body (exec_retire tk) ?_
      rw [retireBody, withHandle_reads (s := s.taken p) ha hl lease hv, taken_record, hs]
  case restore =>
    refine ⟨fun ha => answersOnly_of_body (exec_restore tk) (withHandle_badArg _ p ha _),
      fun h ha hl lease hv hs => answersOnly_of_body (exec_restore tk) ?_⟩
    rw [restoreBody, withHandle_reads (s := s.taken p) ha hl lease hv, taken_record]
    split
    · next k reason hr => exact absurd hr (hs k reason)
    all_goals rfl
  case evict =>
    have row := exec_evict tk
    refine ⟨fun ha => answersOnly_of_body row (evictBody_badArg _ p ha), fun x ha lease => ⟨?_, fun hx hm => ?_,
      fun n hx hm => ?_⟩⟩
    · rintro rfl
      exact answersOnly_of_body row (evictBody_self (s := s.taken x) lease ha)
    · refine answersOnly_of_body row ((evictBody_notOnline (s := s.taken p) lease ha hx (by simp [hm])).trans ?_)
      rw [taken_member, hm]
      rfl
    · refine answersOnly_of_body row ((evictBody_notOnline (s := s.taken p) lease ha hx (by simp [hm])).trans ?_)
      rw [taken_member, hm]
      rfl
  case send =>
    have row := exec_send tk
    rw [sendBody, taken_withToken v hp] at row
    refine ⟨fun ha => ?_, fun x ha => ⟨?_, fun hx ho => ?_, fun hx ho hs => ?_, fun hx ho hs ht => ?_⟩⟩
    · exact answersOnly_of_taken (row.trans (by rw [sendChecks_noPort h k _ p ha]))
    · rintro rfl
      exact answersOnly_of_taken (row.trans (by rw [sendChecks_self h k _ ha]))
    · exact answersOnly_of_taken (row.trans (by rw [sendChecks_offline (s := s.taken p) h k ha hx ho]))
    · exact answersOnly_of_taken (row.trans (by rw [sendChecks_full (s := s.taken p) h k ha hx ho hs]))
    · exact answersOnly_of_taken (row.trans (by rw [sendChecks_transit (s := s.taken p) h k ha hx ho hs ht]))
  case take =>
    have row := exec_take tk
    exact ⟨fun hi => answersOnly_of_body row (takeBody_empty (s := s.taken p) hi),
      fun d cl hc hv hp => answersOnly_of_body row (takeBody_full (s := s.taken p) hc hv hp)⟩
  case refuse => exact answersOnly_of_body (exec_refuse tk) (refuseBody_empty (s := s.taken p) hi)

end Sys2Proof.Machine
end

section
/-! PROOFS. The accounts of the pools (R21, R22, R24, R69). While an operation works on one handle, the handle is "in
hand": the counts of its pool leave it out, and say of it separately whether the retired count and the charges still
count it. An operation takes a handle in hand, changes its record, its deliveries and the counts one at a time, and puts
it back. -/

namespace Sys2Proof.Machine

/-! ### Counting with one element left out -/

theorem countP_split {l : List Nat} (hn : l.Nodup) (a : Nat) (P : Nat → Bool) :
    l.countP P = l.countP (fun h => !decide (a = h) && P h) + if a ∈ l ∧ P a = true then 1 else 0 := by
  induction l with
  | nil => simp
  | cons b l ih =>
    obtain ⟨hb, hl⟩ := List.nodup_cons.1 hn
    rw [List.countP_cons, List.countP_cons]
    by_cases e : a = b
    · subst e
      have others : l.countP P = l.countP fun h => !decide (a = h) && P h := by
        refine List.countP_congr fun h hm => ?_
        have : a ≠ h := fun e => hb (e ▸ hm)
        simp [this]
      simp [others]
    · rw [ih hl]
      simp only [e, decide_false, Bool.not_false, Bool.true_and, List.mem_cons, false_or]
      omega

/-! ### The handle in hand -/

/-- A handle taken out of the accounts of its pool, whether the retired count still counts it, and whose charges. -/
structure Hand where
  pool : PoolId
  handle : HandleNo
  retired : Bool
  charged : Port → Bool

/-- The handle is the one in hand. -/
def inHand (x : Option Hand) (h : HandleNo) : Bool := x.any fun a => decide (a.handle = h)

@[simp] theorem inHand_none (h : HandleNo) : inHand none h = false := rfl

@[simp] theorem inHand_some (a : Hand) (h : HandleNo) : inHand (some a) h = decide (a.handle = h) := rfl

/-- What the retired count of pool k counts for the handle in hand. -/
def retiredHand (x : Option Hand) (k : PoolId) : Nat :=
  if x.any (fun a => decide (a.pool = k) && a.retired) then 1 else 0

/-- What the charge of port p in pool k counts for the handle in hand, where only handles below the limit count. -/
def chargedHand (x : Option Hand) (k : PoolId) (p : Port) (limit : Nat) : Nat :=
  if x.any (fun a => decide (a.pool = k) && (decide (a.handle < limit) && a.charged p)) then 1 else 0

@[simp] theorem retiredHand_none (k : PoolId) : retiredHand none k = 0 := rfl

@[simp] theorem chargedHand_none (k : PoolId) (p : Port) (n : Nat) : chargedHand none k p n = 0 := rfl

/-- Port p holds the handle, whose record verifies and is IN_USE. -/
def State.heldBy (s : State) (h : HandleNo) (p : Port) : Bool :=
  (s.record h).verifies && (s.record h).state.isInUse && decide ((s.record h).hold p ≠ 0)

/-- The handle is off the free stack of pool k and recorded RETIRED. -/
def State.withdrawn (s : State) (k : PoolId) (h : HandleNo) : Bool :=
  !(s.pool k).stack.contains h && (s.record h).state.isRetired

/-- The RETIRED handles of pool k, the one in hand left out. -/
def retiredBut (x : Option Hand) (s : State) (k : PoolId) : Nat :=
  (s.pool k).range.countP fun h => !inHand x h && s.withdrawn k h

/-- The handles of pool k below the limit that port p holds, the one in hand left out. -/
def heldBut (x : Option Hand) (s : State) (k : PoolId) (p : Port) (limit : Nat) : Nat :=
  (s.pool k).range.countP fun h => !inHand x h && (decide (h < limit) && s.heldBy h p)

/-- No record of pool k below the limit that is treated as IN_USE is damaged, the one in hand left out. -/
def NoneDamagedBut (x : Option Hand) (s : State) (k : PoolId) (limit : Nat) : Prop :=
  ∀ h, inHand x h = false → h < limit → s.treatedInUse k h = true → (s.record h).verifies = true

theorem retiredBut_none (s : State) (k : PoolId) : retiredBut none s k = s.retiredIn k := by
  simp [retiredBut, State.retiredIn, State.withdrawn]

theorem heldBut_none (s : State) (k : PoolId) (p : Port) (n : Nat) : heldBut none s k p n = s.heldBelow k p n := by
  simp [heldBut, State.heldBelow, State.heldBy, Bool.and_assoc]

theorem noneDamagedBut_none (s : State) (k : PoolId) (n : Nat) :
    NoneDamagedBut none s k n ↔ NoneDamagedBelow s k n := by
  simp [NoneDamagedBut, NoneDamagedBelow]

/-! ### What is kept -/

/-- A configured pool agrees with the handle table, but for the handle in hand. -/
structure PoolFits (x : Option Hand) (s : State) (k : PoolId) : Prop where
  count_pos : 0 < (s.pool k).count
  last : (s.pool k).first + (s.pool k).count ≤ 4096
  nodup : (s.pool k).stack.Nodup
  covered : ∀ h ∈ (s.pool k).stack, (s.pool k).covers h = true
  waiting : (s.pool k).waitList ≠ [] → (s.pool k).stack = []
  retired : (s.pool k).retired = retiredBut x s k + retiredHand x k

/-- A recount of pool k that has counted up to `reach` of its pointer. -/
structure RecountCounts (reach : Nat → Nat) (x : Option Hand) (s : State) (k : PoolId) (rc : RecountRec) : Prop where
  first_le : (s.pool k).first ≤ rc.pointer
  lt_last : rc.pointer < (s.pool k).first + (s.pool k).count
  needed : rc.disturbed = true → (s.pool k).recountNeeded = true
  shadow : rc.disturbed = false → NoneDamagedBut x s k (reach rc.pointer) →
    ∀ p : Port, rc.shadow[p] = heldBut x s k p (reach rc.pointer) + chargedHand x k p (reach rc.pointer)

/-- The charges of pool k count the holdings, but for the handle in hand. -/
structure ChargesCount (reach : Nat → Nat) (x : Option Hand) (s : State) (k : PoolId) : Prop where
  live : (s.pool k).recountNeeded = false → NoneDamagedBut x s k 4096 →
    ∀ p : Port, (s.pool k).charge[p] = heldBut x s k p 4096 + chargedHand x k p 4096
  recount : ∀ rc, (s.pool k).recount = some rc → RecountCounts reach x s k rc

/-- A handle's record agrees with the pools and the inbound queues, and its deliveries find it treated as IN_USE. -/
structure HandleKept (s : State) (h : HandleNo) : Prop where
  record : RecordSound s h
  inUse : 0 < s.deliveriesOf h → ∃ k, s.treatedInUse k h = true

/-- The device is READY, and pools, records, queues and, where `c` asks for it, charges agree, but for the handle in
hand. -/
structure Kept (c : Prop) (reach : PoolId → Nat → Nat) (x : Option Hand) (s : State) : Prop where
  ready : s.device = .ready
  unconfigured : ∀ k, (s.pool k).state = .unconfigured → s.pool k = .unconfigured
  pools : ∀ k, (s.pool k).state ≠ .unconfigured → PoolFits x s k
  apart : ∀ j k h, (s.pool j).covers h = true → (s.pool k).covers h = true → j = k
  handles : ∀ h, inHand x h = false → HandleKept s h
  charges : c → ∀ k, (s.pool k).state ≠ .unconfigured → ChargesCount (reach k) x s k
  hand : ∀ a, x = some a → (s.pool a.pool).covers a.handle = true ∧ a.handle ∉ (s.pool a.pool).stack

/-- Every recount has counted up to its pointer. -/
def toPointer : PoolId → Nat → Nat := fun _ n => n

/-- With no handle in hand this is what the two invariants say of a READY device. -/
theorem kept_iff {c : Prop} {s : State} (hd : s.device = .ready) :
    Kept c toPointer none s ↔ StructureInv s ∧ (c → ChargeInv s) := by
  rw [StructureInv, hd]
  constructor
  · intro h
    refine ⟨⟨⟨h.unconfigured, fun k hk => ?_, h.apart⟩, fun j => (h.handles j rfl).record,
      fun j => (h.handles j rfl).inUse⟩, fun hc _ k hk => ⟨?_, fun rc hr => ?_⟩⟩
    · obtain ⟨count_pos, last, nodup, covered, waiting, retired⟩ := h.pools k hk
      rw [retiredBut_none, retiredHand_none, Nat.add_zero] at retired
      exact ⟨count_pos, last, nodup, covered, waiting, retired⟩
    · have live := (h.charges hc k hk).live
      simp only [noneDamagedBut_none, heldBut_none, chargedHand_none, Nat.add_zero] at live
      exact live
    · obtain ⟨first_le, lt_last, needed, shadow⟩ := (h.charges hc k hk).recount rc hr
      simp only [toPointer, noneDamagedBut_none, heldBut_none, chargedHand_none, Nat.add_zero] at shadow
      exact ⟨first_le, lt_last, needed, shadow⟩
  · rintro ⟨⟨⟨unconfigured, pools, apart⟩, records, deliveries⟩, charges⟩
    refine ⟨hd, unconfigured, fun k hk => ?_, apart, fun j _ => ⟨records j, deliveries j⟩, fun hc k hk => ⟨?_, ?_⟩,
      fun a ha => by cases ha⟩
    · obtain ⟨count_pos, last, nodup, covered, waiting, retired⟩ := pools k hk
      exact ⟨count_pos, last, nodup, covered, waiting, by
        rw [retiredBut_none, retiredHand_none, Nat.add_zero]; exact retired⟩
    · simp only [noneDamagedBut_none, heldBut_none, chargedHand_none, Nat.add_zero]
      exact (charges hc hd k hk).1
    · intro rc hr
      obtain ⟨first_le, lt_last, needed, shadow⟩ := (charges hc hd k hk).2 rc hr
      refine ⟨first_le, lt_last, needed, ?_⟩
      simp only [toPointer, noneDamagedBut_none, heldBut_none, chargedHand_none, Nat.add_zero]
      exact shadow

/-! ### The pools of handles -/

theorem covers_iff (q : PoolRec) (h : HandleNo) :
    q.covers h = true ↔ q.state ≠ .unconfigured ∧ q.first ≤ h ∧ h < q.first + q.count := by
  simp [PoolRec.covers, and_assoc]

theorem covers_of_mem_range {q : PoolRec} (hq : q.state ≠ .unconfigured) {h : HandleNo} (hm : h ∈ q.range) :
    q.covers h = true := by
  obtain ⟨h1, h2⟩ := (mem_range q h).1 hm
  exact (covers_iff q h).2 ⟨hq, h1, h2⟩

theorem mem_range_of_covers {q : PoolRec} {h : HandleNo} (hc : q.covers h = true) : h ∈ q.range := by
  obtain ⟨-, h1, h2⟩ := (covers_iff q h).1 hc
  exact (mem_range q h).2 ⟨h1, h2⟩

theorem range_nodup (q : PoolRec) : q.range.Nodup := List.nodup_range'

theorem poolOf_covers {s : State} {h : HandleNo} {k : PoolId} (hk : s.poolOf h = some k) :
    (s.pool k).covers h = true := by
  simpa using List.find?_some hk

theorem poolOf_none_iff (s : State) (h : HandleNo) : s.poolOf h = none ↔ ∀ k, (s.pool k).covers h = false := by
  rw [State.poolOf, List.find?_eq_none]
  exact ⟨fun hn k => by simpa using hn k (allPools_mem k), fun hn k _ => by simp [hn k]⟩

section
variable {c : Prop} {reach : PoolId → Nat → Nat} {x : Option Hand} {s : State}

theorem Kept.poolOf_eq (ok : Kept c reach x s) {h : HandleNo} {k : PoolId} (hc : (s.pool k).covers h = true) :
    s.poolOf h = some k := by
  rcases hp : s.poolOf h with _ | j
  · rw [(poolOf_none_iff s h).1 hp k] at hc; cases hc
  · rw [ok.apart j k h (poolOf_covers hp) hc]

theorem Kept.configured {h : HandleNo} {k : PoolId} (hc : (s.pool k).covers h = true) :
    (s.pool k).state ≠ .unconfigured := ((covers_iff _ _).1 hc).1

/-- A handle on a stack belongs to that stack's pool. -/
theorem Kept.covers_of_stack (ok : Kept c reach x s) {h : HandleNo} {k : PoolId} (hm : h ∈ (s.pool k).stack) :
    (s.pool k).covers h = true := by
  by_cases hk : (s.pool k).state = .unconfigured
  · rw [ok.unconfigured k hk] at hm; cases hm
  · exact (ok.pools k hk).covered h hm

/-- A handle covered by one pool is on no other stack. -/
theorem Kept.stack_eq (ok : Kept c reach x s) {h : HandleNo} {j k : PoolId} (hc : (s.pool k).covers h = true)
    (hm : h ∈ (s.pool j).stack) : j = k := ok.apart j k h (ok.covers_of_stack hm) hc

theorem treatedInUse_iff (s : State) (k : PoolId) (h : HandleNo) : s.treatedInUse k h = true ↔
    (s.pool k).covers h = true ∧ h ∉ (s.pool k).stack ∧ (s.record h).state.isRetired = false := by
  simp [State.treatedInUse, and_assoc]

/-- A handle that its one pool does not treat as IN_USE has no delivery. -/
theorem Kept.noDelivery (ok : Kept c reach x s) {h : HandleNo} (hx : inHand x h = false)
    (hn : ∀ k, s.treatedInUse k h = false) : s.deliveriesOf h = 0 := by
  by_contra hp
  obtain ⟨k, hk⟩ := (ok.handles h hx).inUse (Nat.pos_of_ne_zero hp)
  rw [hn k] at hk
  cases hk

end

/-! ### Accounts that read the same -/

/-- A pool record that says the same of the handles, the charges and the recount, and gains a waiter only where its
stack is empty. -/
structure PoolRec.Alike (q q' : PoolRec) : Prop where
  state : q'.state = .unconfigured ↔ q.state = .unconfigured
  unconfigured : q = .unconfigured → q' = .unconfigured
  first : q'.first = q.first
  count : q'.count = q.count
  stack : q'.stack = q.stack
  retired : q'.retired = q.retired
  waiting : q'.waitList ≠ [] → q.waitList ≠ [] ∨ q.stack = []
  charge : q'.charge = q.charge
  needed : q'.recountNeeded = q.recountNeeded
  recount : ∀ rc', q'.recount = some rc' → ∃ rc, q.recount = some rc ∧ rc'.shadow = rc.shadow
    ∧ rc'.pointer = rc.pointer ∧ rc'.disturbed = rc.disturbed

theorem PoolRec.Alike.refl (q : PoolRec) : q.Alike q :=
  ⟨Iff.rfl, id, rfl, rfl, rfl, rfl, .inl, rfl, rfl, fun rc h => ⟨rc, h, rfl, rfl, rfl⟩⟩

theorem PoolRec.Alike.covers {q q' : PoolRec} (a : q.Alike q') (h : HandleNo) : q'.covers h = q.covers h := by
  rw [PoolRec.covers, PoolRec.covers, a.first, a.count, decide_eq_decide.2 (not_congr a.state)]

theorem PoolRec.Alike.range {q q' : PoolRec} (a : q.Alike q') : q'.range = q.range := by
  rw [PoolRec.range, PoolRec.range, a.first, a.count]

/-- For the accounts of pool k two hands are the same. -/
structure SameHand (s : State) (k : PoolId) (x x' : Option Hand) : Prop where
  handle : ∀ h, (s.pool k).covers h = true → inHand x' h = inHand x h
  retired : retiredHand x' k = retiredHand x k
  charged : ∀ p n, chargedHand x' k p n = chargedHand x k p n

theorem SameHand.refl (s : State) (k : PoolId) (x : Option Hand) : SameHand s k x x :=
  ⟨fun _ _ => rfl, rfl, fun _ _ => rfl⟩

/-- The same handle of pool k is in hand in the state t, and the records of the others read the same. -/
structure SameRecords (x x' : Option Hand) (s t : State) (k : PoolId) : Prop where
  handle : ∀ h, (s.pool k).covers h = true → inHand x' h = inHand x h
  record : ∀ h, (s.pool k).covers h = true → inHand x h = false → t.record h = s.record h

section
variable {x x' : Option Hand} {s t : State} {k : PoolId}

theorem retiredBut_eq (hk : (s.pool k).state ≠ .unconfigured) (same : SameRecords x x' s t k)
    (stack : (t.pool k).stack = (s.pool k).stack) (range : (t.pool k).range = (s.pool k).range) :
    retiredBut x' t k = retiredBut x s k := by
  unfold retiredBut
  rw [range]
  refine List.countP_congr fun h hm => ?_
  have hc := covers_of_mem_range hk hm
  rw [same.handle h hc, State.withdrawn, State.withdrawn, stack]
  rcases hx : inHand x h with _ | _
  · rw [same.record h hc hx]
  · simp

theorem heldBut_eq (hk : (s.pool k).state ≠ .unconfigured) (same : SameRecords x x' s t k)
    (range : (t.pool k).range = (s.pool k).range) (p : Port) (n : Nat) : heldBut x' t k p n = heldBut x s k p n := by
  unfold heldBut
  rw [range]
  refine List.countP_congr fun h hm => ?_
  have hc := covers_of_mem_range hk hm
  rw [same.handle h hc, State.heldBy, State.heldBy]
  rcases hx : inHand x h with _ | _
  · rw [same.record h hc hx]
  · simp

theorem noneDamagedBut_of (same : SameRecords x x' s t k) (covers : ∀ h, (t.pool k).covers h = (s.pool k).covers h)
    (stack : (t.pool k).stack = (s.pool k).stack) {n : Nat} (nd : NoneDamagedBut x' t k n) :
    NoneDamagedBut x s k n := by
  intro h hx hl hu
  obtain ⟨hc, hs, hr⟩ := (treatedInUse_iff s k h).1 hu
  rw [← same.record h hc hx] at hr ⊢
  exact nd h ((same.handle h hc).trans hx) hl ((treatedInUse_iff t k h).2 ⟨by rwa [covers], by rwa [stack], hr⟩)

theorem PoolFits.alike (ok : PoolFits x s k) (hk : (s.pool k).state ≠ .unconfigured)
    (same : SameRecords x x' s t k) (hand : SameHand s k x x') (a : (s.pool k).Alike (t.pool k)) :
    PoolFits x' t k := by
  refine ⟨?_, ?_, ?_, fun h hm => ?_, fun hw => ?_, ?_⟩
  · rw [a.count]; exact ok.count_pos
  · rw [a.first, a.count]; exact ok.last
  · rw [a.stack]; exact ok.nodup
  · rw [a.covers]; exact ok.covered h (a.stack ▸ hm)
  · rw [a.stack]
    exact (a.waiting hw).elim ok.waiting id
  · rw [a.retired, ok.retired, retiredBut_eq hk same a.stack a.range, hand.retired]

theorem ChargesCount.alike {reach : Nat → Nat} (ok : ChargesCount reach x s k) (hk : (s.pool k).state ≠ .unconfigured)
    (same : SameRecords x x' s t k) (hand : SameHand s k x x') (a : (s.pool k).Alike (t.pool k)) :
    ChargesCount reach x' t k := by
  refine ⟨fun hn nd p => ?_, fun rc' hr => ?_⟩
  · rw [a.needed] at hn
    rw [heldBut_eq hk same a.range, hand.charged, ← ok.live hn (noneDamagedBut_of same a.covers a.stack nd) p]
    simp only [a.charge]
  · obtain ⟨rc, hrc, shadow, pointer, disturbed⟩ := a.recount rc' hr
    obtain ⟨first_le, lt_last, needed, count⟩ := ok.recount rc hrc
    refine ⟨?_, ?_, ?_, fun hd nd p => ?_⟩
    · rw [a.first, pointer]; exact first_le
    · rw [a.first, a.count, pointer]; exact lt_last
    · rw [a.needed, disturbed]; exact needed
    · rw [disturbed] at hd
      rw [pointer] at nd ⊢
      rw [heldBut_eq hk same a.range, hand.charged,
        ← count hd (noneDamagedBut_of same a.covers a.stack nd) p]
      simp only [shadow]

end

/-! ### Deliveries that name a handle -/

/-- The deliveries of the queue that name the handle. -/
def Inbound.naming (q : Inbound) (h : HandleNo) : List Delivery := (q.urgent ++ q.normal).filter (·.names h)

theorem countOf_eq (q : Inbound) (h : HandleNo) : q.countOf h = (q.naming h).length := by
  rw [Inbound.countOf, Inbound.naming, ← List.countP_append, List.countP_eq_length_filter]

theorem deliveriesOf_congr {s t : State} {h : HandleNo}
    (hn : ∀ q, ((t.member q).inbound.naming h).length = ((s.member q).inbound.naming h).length) :
    t.deliveriesOf h = s.deliveriesOf h := by
  simp only [State.deliveriesOf, countOf_eq, hn]

/-- A record reads the same where the pools, the stacks and the deliveries say the same of its handle. -/
theorem HandleKept.congr {s t : State} {h : HandleNo} (ok : HandleKept s h) (record : t.record h = s.record h)
    (covers : ∀ k, (t.pool k).covers h = (s.pool k).covers h)
    (stack : ∀ k, h ∈ (t.pool k).stack ↔ h ∈ (s.pool k).stack)
    (naming : ∀ q, (t.member q).inbound.naming h = (s.member q).inbound.naming h) : HandleKept t h := by
  have count : t.deliveriesOf h = s.deliveriesOf h := deliveriesOf_congr fun q => by rw [naming]
  have poolOf : t.poolOf h = s.poolOf h := by simp only [State.poolOf, covers]
  refine ⟨fun hv => ?_, fun hp => ?_⟩
  · rw [record] at hv
    obtain ⟨pool, free, used, unused, holds, transit, transits, gens⟩ := ok.record hv
    rw [record, poolOf, count]
    refine ⟨pool, fun k => (free k).trans (stack k).symm, used, unused, holds, transit, transits, fun p d hd ht => ?_⟩
    have named : d ∈ (t.member p).inbound.naming h := List.mem_filter.2 ⟨hd, by simpa [Delivery.names] using ht⟩
    rw [naming] at named
    exact gens p d (List.mem_filter.1 named).1 ht
  · rw [count] at hp
    obtain ⟨k, hk⟩ := ok.inUse hp
    obtain ⟨hc, hs, hr⟩ := (treatedInUse_iff s k h).1 hk
    exact ⟨k, (treatedInUse_iff t k h).2 ⟨by rwa [covers], by rwa [stack], by rwa [record]⟩⟩

/-! ### Changes that keep the accounts -/

/-- What a state t has of a state s apart from the handle in hand. -/
structure ReadsAlike (x : Option Hand) (s t : State) : Prop where
  device : t.device = s.device
  pool : ∀ k, (s.pool k).Alike (t.pool k)
  record : ∀ h, inHand x h = false → t.record h = s.record h
  naming : ∀ h, inHand x h = false → ∀ q, (t.member q).inbound.naming h = (s.member q).inbound.naming h

theorem Kept.readsAlike {c : Prop} {reach : PoolId → Nat → Nat} {x : Option Hand} {s t : State}
    (ok : Kept c reach x s) (a : ReadsAlike x s t) : Kept c reach x t := by
  have covers : ∀ k h, (t.pool k).covers h = (s.pool k).covers h := fun k h => (a.pool k).covers h
  have stack : ∀ k, (t.pool k).stack = (s.pool k).stack := fun k => (a.pool k).stack
  have same : ∀ k, SameRecords x x s t k := fun k => ⟨fun _ _ => rfl, fun h _ hx => a.record h hx⟩
  refine ⟨a.device.trans ok.ready, fun k hk => ?_, fun k hk => ?_, fun j k h hj hk => ?_, fun h hx => ?_,
    fun hc k hk => ?_, fun b hb => ?_⟩
  · exact (a.pool k).unconfigured (ok.unconfigured k ((a.pool k).state.1 hk))
  · have hk' := fun e => hk ((a.pool k).state.2 e)
    exact (ok.pools k hk').alike hk' (same k) (.refl s k x) (a.pool k)
  · rw [covers] at hj hk
    exact ok.apart j k h hj hk
  · exact (ok.handles h hx).congr (a.record h hx) (fun k => covers k h) (fun k => by rw [stack]) (a.naming h hx)
  · have hk' := fun e => hk ((a.pool k).state.2 e)
    exact (ok.charges hc k hk').alike hk' (same k) (.refl s k x) (a.pool k)
  · rw [covers, stack]
    exact ok.hand b hb

/-- Windows, the lease, memberships and the arbiter are none of the accounts' business. -/
theorem Kept.same {c : Prop} {reach : PoolId → Nat → Nat} {x : Option Hand} {s t : State} (ok : Kept c reach x s)
    (device : t.device = s.device) (pool : ∀ k, t.pool k = s.pool k) (record : ∀ h, t.record h = s.record h)
    (inbound : ∀ q, (t.member q).inbound = (s.member q).inbound) : Kept c reach x t :=
  ok.readsAlike ⟨device, fun k => by rw [pool]; exact .refl _, fun h _ => record h, fun _ _ q => by rw [inbound]⟩

/-- One pool record changes and reads alike. -/
theorem Kept.updPool {c : Prop} {reach : PoolId → Nat → Nat} {x : Option Hand} {s : State} (ok : Kept c reach x s)
    (k : PoolId) {f : PoolRec → PoolRec} (a : (s.pool k).Alike (f (s.pool k))) : Kept c reach x (s.updPool k f) := by
  refine ok.readsAlike ⟨rfl, fun j => ?_, fun _ _ => rfl, fun _ _ _ => rfl⟩
  rw [updPool_pool]
  split
  · next e => subst e; exact a
  · exact .refl _

end Sys2Proof.Machine
end

section
/-! PROOFS. Taking a handle in hand, what can be done with it there, and putting it back. -/

namespace Sys2Proof.Machine

section
variable {c : Prop} {reach : PoolId → Nat → Nat}

/-! ### One pool's accounts change -/

/-- A state t that reads as s does outside pool k. -/
structure ReadsAlikeBut (k : PoolId) (x x' : Option Hand) (s t : State) : Prop where
  device : t.device = s.device
  other : ∀ j, j ≠ k → t.pool j = s.pool j
  state : (t.pool k).state = (s.pool k).state
  first : (t.pool k).first = (s.pool k).first
  count : (t.pool k).count = (s.pool k).count
  record : ∀ h, (s.pool k).covers h = false → t.record h = s.record h
  hand : ∀ j, j ≠ k → SameHand s j x x'

theorem ReadsAlikeBut.covers {k : PoolId} {x x' : Option Hand} {s t : State} (a : ReadsAlikeBut k x x' s t)
    (j : PoolId) (h : HandleNo) : (t.pool j).covers h = (s.pool j).covers h := by
  by_cases e : j = k
  · subst e; rw [PoolRec.covers, PoolRec.covers, a.state, a.first, a.count]
  · rw [a.other j e]

theorem ReadsAlikeBut.range {k : PoolId} {x x' : Option Hand} {s t : State} (a : ReadsAlikeBut k x x' s t) :
    (t.pool k).range = (s.pool k).range := by
  rw [PoolRec.range, PoolRec.range, a.first, a.count]

/-- Where only pool k's accounts change, only they are to be looked at. -/
theorem Kept.onePool {x x' : Option Hand} {s t : State} (ok : Kept c reach x s) {k : PoolId}
    (hk : (s.pool k).state ≠ .unconfigured) (a : ReadsAlikeBut k x x' s t) (fits : PoolFits x' t k)
    (charges : c → ChargesCount (reach k) x' t k) (handles : ∀ h, inHand x' h = false → HandleKept t h)
    (hand : ∀ b, x' = some b → (s.pool b.pool).covers b.handle = true ∧ b.handle ∉ (t.pool b.pool).stack) :
    Kept c reach x' t := by
  have outside : ∀ {j}, j ≠ k → SameRecords x x' s t j := fun hj =>
    ⟨(a.hand _ hj).handle, fun h hc _ => a.record h (by
      rcases hck : (s.pool k).covers h with _ | _
      · rfl
      · exact absurd (ok.apart _ _ h hc hck) hj)⟩
  have alike : ∀ {j}, j ≠ k → (s.pool j).Alike (t.pool j) := fun hj => by rw [a.other _ hj]; exact .refl _
  refine ⟨a.device.trans ok.ready, fun j hj => ?_, fun j hj => ?_, fun i j h hi hj => ?_, handles, fun hc j hj => ?_,
    fun b hb => ?_⟩
  · by_cases e : j = k
    · subst e; exact absurd (a.state ▸ hj) hk
    · rw [a.other j e] at hj ⊢; exact ok.unconfigured j hj
  · by_cases e : j = k
    · subst e; exact fits
    · have hj' := hj
      rw [a.other j e] at hj'
      exact (ok.pools j hj').alike hj' (outside e) (a.hand j e) (alike e)
  · rw [a.covers] at hi hj
    exact ok.apart i j h hi hj
  · by_cases e : j = k
    · subst e; exact charges hc
    · have hj' := hj
      rw [a.other j e] at hj'
      exact (ok.charges hc j hj').alike hj' (outside e) (a.hand j e) (alike e)
  · rw [a.covers]
    exact hand b hb

/-! ### The counts with a handle in hand -/

/-- Outside its own pool a hand makes no difference. -/
theorem sameHand_of_ne {x : Option Hand} {s : State} (ok : Kept c reach x s) {a : Hand}
    (ha : (s.pool a.pool).covers a.handle = true) {j : PoolId} (hj : j ≠ a.pool) : SameHand s j none (some a) := by
  refine ⟨fun h hc => ?_, ?_, fun p n => ?_⟩
  · have other : a.handle ≠ h := by
      rintro rfl
      exact hj (ok.apart j a.pool _ hc ha)
    simp [other]
  · simp [retiredHand, Ne.symm hj]
  · simp [chargedHand, Ne.symm hj]

/-- Outside its own pool what is in hand may change. -/
theorem sameHand_of_hands {x : Option Hand} {s : State} (ok : Kept c reach x s) {a b : Hand} (hp : b.pool = a.pool)
    (hh : b.handle = a.handle) (ha : (s.pool a.pool).covers a.handle = true) {j : PoolId} (hj : j ≠ a.pool) :
    SameHand s j (some a) (some b) := by
  have one := sameHand_of_ne ok ha hj
  have two := sameHand_of_ne ok (a := b) (by rw [hp, hh]; exact ha) (j := j) (by rw [hp]; exact hj)
  exact ⟨fun h hc => (two.handle h hc).trans (one.handle h hc).symm, two.retired.trans one.retired.symm,
    fun p n => (two.charged p n).trans (one.charged p n).symm⟩

section
variable {s : State} {a : Hand}

theorem retiredBut_split (ha : (s.pool a.pool).covers a.handle = true) (hs : a.handle ∉ (s.pool a.pool).stack)
    (hr : a.retired = (s.record a.handle).state.isRetired) :
    retiredBut none s a.pool = retiredBut (some a) s a.pool + retiredHand (some a) a.pool := by
  have split := countP_split (range_nodup (s.pool a.pool)) a.handle (s.withdrawn a.pool)
  have counted : (if a.handle ∈ (s.pool a.pool).range ∧ s.withdrawn a.pool a.handle = true then 1 else 0)
      = retiredHand (some a) a.pool := by
    simp [retiredHand, mem_range_of_covers ha, State.withdrawn, hs, hr]
  rw [counted] at split
  simpa [retiredBut] using split

theorem heldBut_split (ha : (s.pool a.pool).covers a.handle = true) {p : Port} (hp : a.charged p = s.heldBy a.handle p)
    (n : Nat) : heldBut none s a.pool p n = heldBut (some a) s a.pool p n + chargedHand (some a) a.pool p n := by
  have split := countP_split (range_nodup (s.pool a.pool)) a.handle fun h => decide (h < n) && s.heldBy h p
  have counted : (if a.handle ∈ (s.pool a.pool).range ∧ (decide (a.handle < n) && s.heldBy a.handle p) = true
      then 1 else 0) = chargedHand (some a) a.pool p n := by
    simp [chargedHand, mem_range_of_covers ha, hp]
  rw [counted] at split
  simpa [heldBut] using split

end

/-! ### Taking in hand and putting back a handle off the stacks -/

/-- The pool's charges are known to be lost (R14): a recount is needed, and one that runs is disturbed. -/
structure PoolRec.Lost (q : PoolRec) : Prop where
  needed : q.recountNeeded = true
  disturbed : ∀ rc, q.recount = some rc → rc.disturbed = true

/-- The handle in hand as its record has it. -/
def State.handOf (s : State) (k : PoolId) (h : HandleNo) : Hand :=
  ⟨k, h, (s.record h).state.isRetired, s.heldBy h⟩

/-- Outside the counts nothing changes when a handle is taken in hand or put back. -/
theorem readsAlikeBut_refl {s : State} {x x' : Option Hand} {k : PoolId}
    (hand : ∀ j, j ≠ k → SameHand s j x x') : ReadsAlikeBut k x x' s s :=
  ⟨rfl, fun _ _ => rfl, rfl, rfl, rfl, fun _ _ => rfl, hand⟩

theorem Kept.pick {s : State} (ok : Kept c reach none s) {k : PoolId} {h : HandleNo}
    (hc : (s.pool k).covers h = true) (hs : h ∉ (s.pool k).stack)
    (hd : (s.record h).verifies = true ∨ (s.record h).state.isRetired = true ∨ (s.pool k).Lost) :
    Kept c reach (some (s.handOf k h)) s := by
  have hk := Kept.configured hc
  have fits := ok.pools k hk
  have undamaged : ∀ {n}, ¬ (s.pool k).Lost → NoneDamagedBut (some (s.handOf k h)) s k n →
      NoneDamagedBut none s k n := by
    intro n hl nd j _ hj hu
    by_cases e : h = j
    · subst e
      rcases hd with hv | hr | hl'
      · exact hv
      · rw [((treatedInUse_iff s k h).1 hu).2.2] at hr; cases hr
      · exact absurd hl' hl
    · exact nd j (by simp [State.handOf, e]) hj hu
  refine ok.onePool hk (readsAlikeBut_refl fun j hj => sameHand_of_ne ok (a := s.handOf k h) hc hj)
    { fits with retired := ?_ } (fun cc => ⟨fun hn nd p => ?_, fun rc hr => ?_⟩) (fun j _ => ok.handles j rfl)
    (fun b hb => by cases hb; exact ⟨hc, hs⟩)
  · rw [fits.retired, retiredHand_none, Nat.add_zero]
    exact retiredBut_split (a := s.handOf k h) hc hs rfl
  · rw [(ok.charges cc k hk).live hn (undamaged (fun l => by rw [l.needed] at hn; cases hn) nd) p, chargedHand_none,
      Nat.add_zero]
    exact heldBut_split (a := s.handOf k h) hc rfl _
  · have counts := (ok.charges cc k hk).recount rc hr
    refine { counts with shadow := fun hu nd p => ?_ }
    rw [counts.shadow hu (undamaged (fun l => by rw [l.disturbed rc hr] at hu; cases hu) nd) p, chargedHand_none,
      Nat.add_zero]
    exact heldBut_split (a := s.handOf k h) hc rfl _

theorem Kept.putBack {s : State} {a : Hand} (ok : Kept c reach (some a) s)
    (retired : a.retired = (s.record a.handle).state.isRetired) (charged : ∀ p, a.charged p = s.heldBy a.handle p)
    (kept : HandleKept s a.handle) : Kept c reach none s := by
  obtain ⟨hc, hs⟩ := ok.hand a rfl
  have hk := Kept.configured hc
  have fits := ok.pools a.pool hk
  have others : ∀ {n}, NoneDamagedBut none s a.pool n → NoneDamagedBut (some a) s a.pool n :=
    fun nd j _ hj hu => nd j rfl hj hu
  have hand : ∀ j, j ≠ a.pool → SameHand s j (some a) none := fun j hj =>
    ⟨fun h hc' => ((sameHand_of_ne ok hc hj).handle h hc').symm, (sameHand_of_ne ok hc hj).retired.symm,
      fun p n => ((sameHand_of_ne ok hc hj).charged p n).symm⟩
  refine ok.onePool hk (readsAlikeBut_refl hand) { fits with retired := ?_ }
    (fun cc => ⟨fun hn nd p => ?_, fun rc hr => ?_⟩) (fun j _ => ?_) (fun b hb => by cases hb)
  · rw [fits.retired, retiredHand_none, Nat.add_zero, retiredBut_split hc hs retired]
  · rw [(ok.charges cc _ hk).live hn (others nd) p, chargedHand_none, Nat.add_zero, heldBut_split hc (charged p)]
  · have counts := (ok.charges cc _ hk).recount rc hr
    refine { counts with shadow := fun hu nd p => ?_ }
    rw [counts.shadow hu (others nd) p, chargedHand_none, Nat.add_zero, heldBut_split hc (charged p)]
  · by_cases e : a.handle = j
    · subst e; exact kept
    · exact ok.handles j (by simp [e])

/-! ### Records that agree -/

theorem deliveriesOf_zero_iff (s : State) (h : HandleNo) :
    s.deliveriesOf h = 0 ↔ ∀ q, (s.member q).inbound.naming h = [] := by
  simp only [State.deliveriesOf, countOf_eq, Nat.add_eq_zero_iff, List.length_eq_zero_iff]
  constructor
  · rintro ⟨⟨⟨h0, h1⟩, h2⟩, h3⟩ q
    fin_cases q <;> assumption
  · exact fun hn => ⟨⟨⟨hn 0, hn 1⟩, hn 2⟩, hn 3⟩

/-- A record that is not IN_USE agrees where it says the handle's pool and stack, and no delivery names it. -/
theorem HandleKept.blank {t : State} {h : HandleNo} {st : HandleState} {g : BitVec 4}
    (hr : t.record h = .blank st g) (hi : st.isInUse = false) (pool : st.pool? = t.poolOf h)
    (free : ∀ k, st = .free k ↔ h ∈ (t.pool k).stack) (hd : t.deliveriesOf h = 0) : HandleKept t h := by
  refine ⟨fun _ => ?_, fun hp => absurd hp (by rw [hd]; exact Nat.lt_irrefl 0)⟩
  rw [hr, hd]
  refine ⟨pool, free, fun hu => ?_, fun _ => ⟨?_, rfl, rfl⟩, fun p => ?_, Nat.zero_le 7, rfl, fun p d hm ht => ?_⟩
  · rw [show (HandleRec.blank st g).state = st from rfl, hi] at hu; cases hu
  · simp only [HandleRec.refs, blank_hold]
    rfl
  · rw [blank_hold]; exact Nat.zero_le 7
  · have named : d ∈ (t.member p).inbound.naming h := List.mem_filter.2 ⟨hm, by simpa [Delivery.names] using ht⟩
    rw [(deliveriesOf_zero_iff t h).1 hd p] at named
    cases named

/-- The deliveries that name the handle are those its record counts, and carry its generation (R69). -/
def Carries (s : State) (h : HandleNo) (transit : Nat) (gen : BitVec 4) : Prop :=
  transit = s.deliveriesOf h ∧ ∀ q, ∀ d ∈ (s.member q).inbound.naming h, tokenGen d.token = gen

/-- A record IN_USE agrees where it has a reference and counts its deliveries. -/
theorem HandleKept.used {t : State} {h : HandleNo} {k : PoolId} (hs : (t.record h).state = .inUse k)
    (pool : t.poolOf h = some k) (off : ∀ j, h ∉ (t.pool j).stack) (refs : (t.record h).refs ≠ 0)
    (holds : ∀ p, (t.record h).hold p ≤ 7) (transit : (t.record h).transit ≤ 7)
    (carries : Carries t h (t.record h).transit (t.record h).gen) : HandleKept t h := by
  refine ⟨fun _ => ⟨?_, fun j => ?_, fun _ => Nat.pos_of_ne_zero refs, fun hu => ?_, holds, transit, carries.1,
    fun p d hm ht => ?_⟩, fun _ => ⟨k, (treatedInUse_iff t k h).2 ⟨poolOf_covers pool, off k, ?_⟩⟩⟩
  · rw [hs, pool]; rfl
  · rw [hs]
    exact ⟨fun e => (by cases e), fun hm => absurd hm (off j)⟩
  · rw [hs] at hu; cases hu
  · exact carries.2 p d (List.mem_filter.2 ⟨hm, by simpa [Delivery.names] using ht⟩)
  · rw [hs]; rfl

/-- What a verifying record IN_USE says. -/
theorem HandleKept.of_inUse {s : State} {h : HandleNo} {k : PoolId} (kept : HandleKept s h)
    (hv : (s.record h).verifies = true) (hs : (s.record h).state = .inUse k) :
    s.poolOf h = some k ∧ (∀ j, h ∉ (s.pool j).stack) ∧ (s.record h).refs ≠ 0 ∧ (∀ p, (s.record h).hold p ≤ 7)
      ∧ (s.record h).transit ≤ 7 ∧ Carries s h (s.record h).transit (s.record h).gen := by
  obtain ⟨pool, free, used, -, holds, transit, transits, gens⟩ := kept.record hv
  rw [hs] at pool free used
  refine ⟨pool.symm, fun j hm => ?_, (used rfl).ne', holds, transit, transits, fun q d hd => ?_⟩
  · cases (free j).2 hm
  · obtain ⟨hm, hn⟩ := List.mem_filter.1 hd
    exact gens q d hm (by simpa [Delivery.names] using hn)

/-! ### Taking a handle from its stack, and onto it -/

/-- A hand that no count counts. -/
def Hand.free (k : PoolId) (h : HandleNo) : Hand := ⟨k, h, false, fun _ => false⟩

@[simp] theorem retiredHand_free (k j : PoolId) (h : HandleNo) : retiredHand (some (Hand.free k h)) j = 0 := by
  simp [retiredHand, Hand.free]

@[simp] theorem chargedHand_free (k j : PoolId) (h : HandleNo) (p : Port) (n : Nat) :
    chargedHand (some (Hand.free k h)) j p n = 0 := by
  simp [chargedHand, Hand.free]

/-- A change of pool k's stack. -/
theorem stack_readsAlikeBut {x x' : Option Hand} {s : State} {k : PoolId} (f : PoolRec → List HandleNo)
    (hand : ∀ j, j ≠ k → SameHand s j x x') :
    ReadsAlikeBut k x x' s (s.updPool k fun q => { q with stack := f q }) :=
  ⟨rfl, fun j hj => updPool_pool_ne s _ hj, by rw [updPool_pool_self], by rw [updPool_pool_self],
    by rw [updPool_pool_self], fun _ _ => rfl, hand⟩

/-- A handle on a free stack is held by nobody, whatever its record says. -/
theorem Kept.heldBy_of_stack {x : Option Hand} {s : State} (ok : Kept c reach x s) {k : PoolId} {h : HandleNo}
    (hx : inHand x h = false) (hm : h ∈ (s.pool k).stack) (p : Port) : s.heldBy h p = false := by
  rcases hv : (s.record h).verifies with _ | _
  · simp [State.heldBy, hv]
  · have free := ((ok.handles h hx).record hv).2.1 k |>.2 hm
    simp [State.heldBy, free, HandleState.isInUse]

theorem Kept.treatedInUse_of_stack {x : Option Hand} {s : State} (ok : Kept c reach x s) {k j : PoolId} {h : HandleNo}
    (hm : h ∈ (s.pool k).stack) : s.treatedInUse j h = false := by
  by_contra hu
  rw [Bool.not_eq_false, treatedInUse_iff] at hu
  exact hu.2.1 (ok.stack_eq hu.1 hm ▸ hm)

@[simp] theorem updPool_heldBy (s : State) (k : PoolId) (f : PoolRec → PoolRec) (h : HandleNo) (p : Port) :
    (s.updPool k f).heldBy h p = s.heldBy h p := rfl

/-- The hand is empty, or holds h and no count counts it. -/
def FreeHand (k : PoolId) (h : HandleNo) (x : Option Hand) : Prop := x = none ∨ x = some (.free k h)

theorem FreeHand.inHand_ne {k : PoolId} {h j : HandleNo} {x : Option Hand} (e : FreeHand k h x) (hj : h ≠ j) :
    inHand x j = false := by
  rcases e with rfl | rfl
  · rfl
  · simp [Hand.free, hj]

theorem FreeHand.retired {k : PoolId} {h : HandleNo} {x : Option Hand} (e : FreeHand k h x) (j : PoolId) :
    retiredHand x j = 0 := by
  rcases e with rfl | rfl
  · rfl
  · exact retiredHand_free k j h

theorem FreeHand.charged {k : PoolId} {h : HandleNo} {x : Option Hand} (e : FreeHand k h x) (j : PoolId) (p : Port)
    (n : Nat) : chargedHand x j p n = 0 := by
  rcases e with rfl | rfl
  · rfl
  · exact chargedHand_free k j h p n

theorem FreeHand.sameHand {k : PoolId} {h : HandleNo} {x x' : Option Hand} {s : State} (ok : Kept c reach x s)
    (e : FreeHand k h x) (e' : FreeHand k h x') (hc : (s.pool k).covers h = true) {j : PoolId} (hj : j ≠ k) :
    SameHand s j x x' := by
  refine ⟨fun i hi => ?_, (e'.retired j).trans (e.retired j).symm,
    fun p n => (e'.charged j p n).trans (e.charged j p n).symm⟩
  have other : h ≠ i := by
    rintro rfl
    exact hj (ok.apart j k _ hi hc)
  exact (e'.inHand_ne other).trans (e.inHand_ne other).symm

/-- The stack of pool k changes in whether it holds h, which no count counts before or after. -/
theorem Kept.restack {x x' : Option Hand} {s : State} (ok : Kept c reach x s) {k : PoolId} {h : HandleNo}
    (hc : (s.pool k).covers h = true) (e : FreeHand k h x) (e' : FreeHand k h x') {l : List HandleNo}
    (nodup : l.Nodup) (rest : ∀ j, h ≠ j → (j ∈ l ↔ j ∈ (s.pool k).stack))
    (waiting : (s.pool k).waitList ≠ [] → l = []) (notHeld : ∀ p, s.heldBy h p = false)
    (before : inHand x h = false → h ∈ (s.pool k).stack) (after : inHand x' h = false → h ∈ l)
    (kept : inHand x' h = false → HandleKept (s.updPool k fun q => { q with stack := l }) h)
    (hand : inHand x' h = true → h ∉ l) : Kept c reach x' (s.updPool k fun q => { q with stack := l }) := by
  have hk := Kept.configured hc
  have fits := ok.pools k hk
  have pool : (s.updPool k fun q => { q with stack := l }).pool k = { s.pool k with stack := l } :=
    updPool_pool_self s k _
  have alike : ReadsAlikeBut k x x' s (s.updPool k fun q => { q with stack := l }) :=
    stack_readsAlikeBut (fun _ => l) fun j hj => e.sameHand ok e' hc hj
  have covered : ∀ j ∈ l, (s.pool k).covers j = true := by
    intro j hj
    by_cases ej : h = j
    · exact ej ▸ hc
    · exact fits.covered j ((rest j ej).1 hj)
  have held : ∀ p n, heldBut x' (s.updPool k fun q => { q with stack := l }) k p n = heldBut x s k p n := by
    intro p n
    unfold heldBut
    rw [alike.range]
    refine List.countP_congr fun j _ => ?_
    by_cases ej : h = j
    · subst ej; simp [notHeld p]
    · simp [e.inHand_ne ej, e'.inHand_ne ej]
  have retired : retiredBut x' (s.updPool k fun q => { q with stack := l }) k = retiredBut x s k := by
    unfold retiredBut
    rw [alike.range]
    refine List.countP_congr fun j _ => ?_
    by_cases ej : h = j
    · subst ej
      rcases hx : inHand x h with _ | _ <;> rcases hx' : inHand x' h with _ | _ <;>
        simp_all [State.withdrawn]
    · simp [e.inHand_ne ej, e'.inHand_ne ej, State.withdrawn, rest j ej]
  have undamaged : ∀ {n}, NoneDamagedBut x' (s.updPool k fun q => { q with stack := l }) k n →
      NoneDamagedBut x s k n := by
    intro n nd j hx hj hu
    obtain ⟨hcj, hsj, hrj⟩ := (treatedInUse_iff s k j).1 hu
    have ej : h ≠ j := by
      rintro rfl
      exact hsj (before hx)
    refine nd j (e'.inHand_ne ej) hj ((treatedInUse_iff _ k j).2 ⟨by rw [alike.covers]; exact hcj, ?_, hrj⟩)
    rw [pool]
    exact fun hj => hsj ((rest j ej).1 hj)
  refine ok.onePool hk alike ?fits (fun cc => ⟨fun hn nd p => ?live, fun rc hr => ?recount⟩) (fun j hj => ?handles)
    (fun b hb => ?hand)
  case fits =>
    refine ⟨?_, ?_, ?_, fun j hj => ?_, fun hw => ?_, ?_⟩
    · rw [pool]; exact fits.count_pos
    · rw [pool]; exact fits.last
    · rw [pool]; exact nodup
    · rw [alike.covers]
      rw [pool] at hj
      exact covered j hj
    · rw [pool] at hw ⊢
      exact waiting hw
    · rw [e'.retired, retired, pool, ← e.retired k]
      exact fits.retired
  case live =>
    rw [pool] at hn ⊢
    rw [e'.charged, held, ← e.charged k p 4096]
    exact (ok.charges cc k hk).live hn (undamaged nd) p
  case recount =>
    rw [pool] at hr
    obtain ⟨first_le, lt_last, needed, shadow⟩ := (ok.charges cc k hk).recount rc hr
    refine ⟨by rw [pool]; exact first_le, by rw [pool]; exact lt_last, by rw [pool]; exact needed, fun hu nd p => ?_⟩
    rw [e'.charged, held, ← e.charged k p (reach k rc.pointer)]
    exact shadow hu (undamaged nd) p
  case handles =>
    by_cases ej : h = j
    · subst ej; exact kept hj
    · refine (ok.handles j (e.inHand_ne ej)).congr rfl (fun i => alike.covers i j) (fun i => ?_) (fun _ => rfl)
      rw [updPool_pool]
      split
      · next hi => subst hi; exact rest j ej
      · exact Iff.rfl
  case hand =>
    rcases e' with rfl | rfl
    · cases hb
    · cases hb
      refine ⟨hc, ?_⟩
      rw [show (Hand.free k h).pool = k from rfl, pool]
      exact hand (by simp [Hand.free])

/-- A handle is taken from the free stack into hand. -/
theorem Kept.unstack {s : State} (ok : Kept c reach none s) {k : PoolId} {h : HandleNo}
    (hm : h ∈ (s.pool k).stack) :
    Kept c reach (some (.free k h)) (s.updPool k fun q => { q with stack := q.stack.erase h }) := by
  have hc := ok.covers_of_stack hm
  have fits := ok.pools k (Kept.configured hc)
  have same : (s.updPool k fun q => { q with stack := q.stack.erase h })
      = s.updPool k fun q => { q with stack := (s.pool k).stack.erase h } := rfl
  rw [same]
  refine ok.restack hc (.inl rfl) (.inr rfl) (fits.nodup.erase h) (fun j e => List.mem_erase_of_ne (Ne.symm e))
    (fun hw => ?_) (ok.heldBy_of_stack rfl hm) (fun _ => hm) (fun hx => ?_) (fun hx => ?_)
    (fun _ => fits.nodup.not_mem_erase)
  · rw [fits.waiting hw]; rfl
  all_goals simp [Hand.free] at hx

/-- A handle in hand whose record is FREE in its pool is put onto the stack. -/
theorem Kept.stackUp {s : State} {k : PoolId} {h : HandleNo} {g : BitVec 4}
    (ok : Kept c reach (some (.free k h)) s) (hr : s.record h = .blank (.free k) g)
    (hw : (s.pool k).waitList = []) (hd : s.deliveriesOf h = 0) :
    Kept c reach none (s.updPool k fun q => { q with stack := h :: q.stack }) := by
  obtain ⟨hc, hs⟩ : (s.pool k).covers h = true ∧ h ∉ (s.pool k).stack := ok.hand _ rfl
  have fits := ok.pools k (Kept.configured hc)
  have same : (s.updPool k fun q => { q with stack := h :: q.stack })
      = s.updPool k fun q => { q with stack := h :: (s.pool k).stack } := rfl
  rw [same]
  refine ok.restack hc (.inr rfl) (.inl rfl) (List.nodup_cons.2 ⟨hs, fits.nodup⟩)
    (fun j e => by simp [Ne.symm e]) (fun h => absurd hw h) (fun p => ?_) (fun hx => ?_) (fun _ => by simp)
    (fun _ => ?_) (fun hx => by simp at hx)
  · simp [State.heldBy, hr, HandleRec.blank, HandleState.isInUse]
  · simp [Hand.free] at hx
  · have onStack : ∀ j, HandleState.free k = .free j ↔
        h ∈ ((s.updPool k fun q => { q with stack := h :: (s.pool k).stack }).pool j).stack := by
      intro j
      rw [updPool_pool]
      by_cases e : j = k
      · subst e; simp
      · rw [if_neg e]
        exact ⟨fun hf => absurd (HandleState.free.inj hf).symm e, fun hm => absurd (ok.stack_eq hc hm) e⟩
    have alike : ReadsAlikeBut k none none s (s.updPool k fun q => { q with stack := h :: (s.pool k).stack }) :=
      stack_readsAlikeBut (fun _ => h :: (s.pool k).stack) fun j _ => SameHand.refl s j none
    have pool : (s.updPool k fun q => { q with stack := h :: (s.pool k).stack }).poolOf h = some k := by
      rw [← ok.poolOf_eq hc]
      simp only [State.poolOf, alike.covers]
    exact HandleKept.blank hr rfl pool.symm onStack hd

end

end Sys2Proof.Machine
end

section
/-! PROOFS. What an operation does with the handle in hand: writing its record, moving its deliveries, and changing
what the counts of its pool count of it. -/

namespace Sys2Proof.Machine

/-! ### Deliveries that name one handle -/

theorem naming_chosen {q : Inbound} {d : Delivery} {cl : DeliveryClass} (hc : q.chosen = some (d, cl))
    (h : HandleNo) : q.naming h = if d.names h then d :: q.tail.naming h else q.tail.naming h := by
  unfold Inbound.chosen at hc
  unfold Inbound.naming Inbound.tail
  split at hc
  · next hu =>
    cases hc
    rw [hu]
    exact List.filter_cons
  · next hu =>
    split at hc
    · next hn =>
      cases hc
      rw [hu, hn]
      exact List.filter_cons
    · cases hc

theorem naming_tail_ne {q : Inbound} {d : Delivery} {cl : DeliveryClass} (hc : q.chosen = some (d, cl))
    {h : HandleNo} (hd : tokenHandle d.token ≠ h) : q.tail.naming h = q.naming h := by
  rw [naming_chosen hc h, if_neg (by simpa [Delivery.names] using hd)]

theorem naming_join (q : Inbound) (d : Delivery) (cl : DeliveryClass) (h : HandleNo) :
    ((q.join d cl).naming h).Perm (if d.names h then d :: q.naming h else q.naming h) := by
  have joined : ((q.join d cl).urgent ++ (q.join d cl).normal).Perm (d :: (q.urgent ++ q.normal)) := by
    cases cl
    · exact (List.append_assoc q.urgent q.normal [d] ▸ List.perm_append_comm :)
    · simp [Inbound.join]
  refine (joined.filter _).trans ?_
  rw [List.filter_cons]
  rfl

theorem naming_join_ne (q : Inbound) {d : Delivery} (cl : DeliveryClass) {h : HandleNo}
    (hd : tokenHandle d.token ≠ h) : (q.join d cl).naming h = q.naming h := by
  have unnamed : d.names h = false := by simpa [Delivery.names] using hd
  cases cl <;> simp [Inbound.naming, Inbound.join, unnamed]

theorem naming_without_self (q : Inbound) (h : HandleNo) : (q.without h).naming h = [] := by
  simp only [Inbound.naming, Inbound.without, List.filter_eq_nil_iff, List.mem_append, List.mem_filter]
  rintro d (⟨-, hd⟩ | ⟨-, hd⟩) <;> simp at hd ⊢ <;> exact hd

theorem naming_without_ne (q : Inbound) {h j : HandleNo} (hj : h ≠ j) : (q.without h).naming j = q.naming j := by
  have apart : ∀ d : Delivery, (d.names j && !d.names h) = d.names j := by
    intro d
    by_cases e : tokenHandle d.token = j
    · simp [Delivery.names, e, hj.symm]
    · simp [Delivery.names, e]
  simp only [Inbound.naming, Inbound.without, List.filter_append, List.filter_filter, apart]

theorem removeDeliveries_deliveriesOf (s : State) (h : HandleNo) : (s.removeDeliveries h).deliveriesOf h = 0 := by
  rw [deliveriesOf_zero_iff]
  intro q
  rw [removeDeliveries_member]
  exact naming_without_self _ h

theorem updMember_deliveriesOf (s : State) (p : Port) (f : Member → Member) (h : HandleNo) :
    (s.updMember p f).deliveriesOf h + ((s.member p).inbound.naming h).length
      = s.deliveriesOf h + ((f (s.member p)).inbound.naming h).length := by
  simp only [State.deliveriesOf, countOf_eq, updMember_member]
  fin_cases p <;> simp <;> omega

theorem Carries.popped {s : State} {p : Port} {d : Delivery} {cl : DeliveryClass}
    (hc : (s.member p).inbound.chosen = some (d, cl)) {n : Nat} {g : BitVec 4}
    (h : Carries s (tokenHandle d.token) n g) : Carries (s.popDelivery p) (tokenHandle d.token) (n - 1) g := by
  have chosen := naming_chosen hc (tokenHandle d.token)
  rw [if_pos (by simp [Delivery.names])] at chosen
  have count := updMember_deliveriesOf s p (fun m => { m with inbound := m.inbound.tail }) (tokenHandle d.token)
  dsimp only at count
  rw [chosen, List.length_cons] at count
  refine ⟨?_, fun q d' hd => ?_⟩
  · rw [h.1]
    change _ = (s.updMember p _).deliveriesOf _
    omega
  · by_cases e : q = p
    · subst e
      rw [popDelivery_member_self] at hd
      exact h.2 q d' (chosen ▸ List.mem_cons_of_mem _ hd)
    · rw [popDelivery_member_ne _ e] at hd
      exact h.2 q d' hd

theorem Carries.added {s : State} {h : HandleNo} {n : Nat} {g : BitVec 4} (carries : Carries s h n g) (p : Port)
    {d : Delivery} (hd : tokenHandle d.token = h) (hg : tokenGen d.token = g) (cl : DeliveryClass) :
    Carries (s.addDelivery p d cl) h (n + 1) g := by
  have joined := naming_join (s.member p).inbound d cl h
  rw [if_pos (by simp [Delivery.names, hd])] at joined
  have count := updMember_deliveriesOf s p (fun m => { m with inbound := m.inbound.join d cl }) h
  dsimp only at count
  rw [joined.length_eq, List.length_cons] at count
  refine ⟨?_, fun q d' hd' => ?_⟩
  · rw [carries.1]
    change _ = (s.updMember p _).deliveriesOf _
    omega
  · by_cases e : q = p
    · subst e
      rw [addDelivery_member_self] at hd'
      rcases List.mem_cons.1 (joined.mem_iff.1 hd') with rfl | hm
      · exact hg
      · exact carries.2 q d' hm
    · rw [addDelivery_member_ne _ _ _ e] at hd'
      exact carries.2 q d' hd'

/-! ### Records and deliveries of the handle in hand -/

section
variable {c : Prop} {reach : PoolId → Nat → Nat} {s : State} {a : Hand}

theorem Kept.write (ok : Kept c reach (some a) s) (r : HandleRec) :
    Kept c reach (some a) (s.writeRecord a.handle r) :=
  ok.readsAlike ⟨rfl, fun _ => .refl _, fun j hj =>
    writeRecord_record_ne (s := s) (Ne.symm (by simpa using hj)) r, fun _ _ _ => rfl⟩

theorem Kept.countFault {x : Option Hand} (ok : Kept c reach x s) : Kept c reach x s.countFault :=
  ok.same rfl (fun _ => rfl) (fun _ => rfl) fun _ => rfl

theorem Kept.removeDeliveries (ok : Kept c reach (some a) s) :
    Kept c reach (some a) (s.removeDeliveries a.handle) :=
  ok.readsAlike ⟨rfl, fun _ => .refl _, fun _ _ => rfl, fun j hj q => by
    rw [removeDeliveries_member]
    exact naming_without_ne _ (by simpa using hj)⟩

theorem Kept.popDelivery (ok : Kept c reach (some a) s) {p : Port} {d : Delivery} {cl : DeliveryClass}
    (hc : (s.member p).inbound.chosen = some (d, cl)) (hd : tokenHandle d.token = a.handle) :
    Kept c reach (some a) (s.popDelivery p) := by
  refine ok.readsAlike ⟨rfl, fun _ => .refl _, fun _ _ => rfl, fun j hj q => ?_⟩
  by_cases e : q = p
  · subst e
    rw [popDelivery_member_self]
    exact naming_tail_ne hc (by rw [hd]; simpa using hj)
  · rw [popDelivery_member_ne _ e]

theorem Kept.addDelivery (ok : Kept c reach (some a) s) (p : Port) {d : Delivery} (cl : DeliveryClass)
    (hd : tokenHandle d.token = a.handle) : Kept c reach (some a) (s.addDelivery p d cl) := by
  refine ok.readsAlike ⟨rfl, fun _ => .refl _, fun _ _ => rfl, fun j hj q => ?_⟩
  by_cases e : q = p
  · subst e
    rw [addDelivery_member_self]
    exact naming_join_ne _ cl (by rw [hd]; simpa using hj)
  · rw [addDelivery_member_ne _ _ _ e]

/-! ### What the counts count of the handle in hand -/

/-- Only the counts of the pool in hand change, by what they count of the handle. -/
theorem Kept.updHand (ok : Kept c reach (some a) s) {b : Hand} (hp : b.pool = a.pool) (hh : b.handle = a.handle)
    {f : PoolRec → PoolRec} (state : (f (s.pool a.pool)).state = (s.pool a.pool).state)
    (first : (f (s.pool a.pool)).first = (s.pool a.pool).first)
    (count : (f (s.pool a.pool)).count = (s.pool a.pool).count)
    (stack : (f (s.pool a.pool)).stack = (s.pool a.pool).stack)
    (waitList : (f (s.pool a.pool)).waitList = (s.pool a.pool).waitList)
    (needed : (f (s.pool a.pool)).recountNeeded = (s.pool a.pool).recountNeeded)
    (retired : ∀ m, (s.pool a.pool).retired = m + a.retired.toNat →
      (f (s.pool a.pool)).retired = m + b.retired.toNat)
    (charge : ∀ (p : Port) m, (s.pool a.pool).charge[p] = m + chargedHand (some a) a.pool p 4096 →
      (f (s.pool a.pool)).charge[p] = m + chargedHand (some b) a.pool p 4096)
    (recount : ∀ rc', (f (s.pool a.pool)).recount = some rc' → ∃ rc, (s.pool a.pool).recount = some rc
      ∧ rc'.pointer = rc.pointer ∧ rc'.disturbed = rc.disturbed
      ∧ ∀ (p : Port) m, rc.shadow[p] = m + chargedHand (some a) a.pool p (reach a.pool rc.pointer) →
        rc'.shadow[p] = m + chargedHand (some b) a.pool p (reach a.pool rc.pointer)) :
    Kept c reach (some b) (s.updPool a.pool f) := by
  obtain ⟨hc, hs⟩ := ok.hand a rfl
  have hk := Kept.configured hc
  have fits := ok.pools a.pool hk
  have pool : (s.updPool a.pool f).pool a.pool = f (s.pool a.pool) := updPool_pool_self s a.pool f
  have alike : ReadsAlikeBut a.pool (some a) (some b) s (s.updPool a.pool f) :=
    ⟨rfl, fun j hj => updPool_pool_ne s _ hj, by rw [pool, state], by rw [pool, first], by rw [pool, count],
      fun _ _ => rfl, fun j hj => sameHand_of_hands ok hp hh hc hj⟩
  have same : SameRecords (some a) (some b) s (s.updPool a.pool f) a.pool :=
    ⟨fun h _ => by simp [hh], fun _ _ _ => rfl⟩
  have sameStack : ((s.updPool a.pool f).pool a.pool).stack = (s.pool a.pool).stack := by rw [pool, stack]
  have held := heldBut_eq hk same alike.range
  have undamaged : ∀ {n}, NoneDamagedBut (some b) (s.updPool a.pool f) a.pool n →
      NoneDamagedBut (some a) s a.pool n := noneDamagedBut_of same (alike.covers a.pool) sameStack
  have retiredOf : ∀ x : Hand, x.pool = a.pool → retiredHand (some x) a.pool = x.retired.toNat := by
    intro x hx
    simp only [retiredHand, Option.any_some, hx, decide_true, Bool.true_and]
    cases x.retired <;> rfl
  refine ok.onePool hk alike ⟨?_, ?_, ?_, fun j hj => ?_, fun hw => ?_, ?_⟩
    (fun cc => ⟨fun hn nd p => ?live, fun rc' hr => ?recount⟩) (fun j hj => ?handles) fun x hx => ?hand
  · rw [pool, count]; exact fits.count_pos
  · rw [pool, first, count]; exact fits.last
  · rw [sameStack]; exact fits.nodup
  · rw [alike.covers]
    rw [sameStack] at hj
    exact fits.covered j hj
  · rw [pool, waitList] at hw
    rw [sameStack]
    exact fits.waiting hw
  · rw [retiredBut_eq hk same sameStack alike.range, retiredOf b hp, pool]
    refine retired _ ?_
    rw [fits.retired, retiredOf a rfl]
  case live =>
    rw [pool, needed] at hn
    rw [held, pool]
    exact charge p _ ((ok.charges cc _ hk).live hn (undamaged nd) p)
  case recount =>
    rw [pool] at hr
    obtain ⟨rc, hrc, pointer, disturbed, shadow⟩ := recount rc' hr
    have counts := (ok.charges cc _ hk).recount rc hrc
    refine ⟨?_, ?_, ?_, fun hu nd p => ?_⟩
    · rw [pool, first, pointer]; exact counts.first_le
    · rw [pool, first, count, pointer]; exact counts.lt_last
    · rw [pool, needed, disturbed]; exact counts.needed
    · rw [disturbed] at hu
      rw [pointer] at nd ⊢
      rw [held]
      exact shadow p _ (counts.shadow hu (undamaged nd) p)
  case handles =>
    refine (ok.handles j (by simpa [hh] using hj)).congr rfl (fun i => alike.covers i j) (fun i => ?_) fun _ => rfl
    rw [updPool_pool]
    split
    · next e => subst e; rw [stack]
    · exact Iff.rfl
  case hand =>
    cases hx
    rw [hp, hh, sameStack]
    exact ⟨hc, hs⟩

/-- The retired count comes to count the handle in hand, or no longer does. -/
theorem Kept.countRetired (ok : Kept c reach (some a) s) (b : Bool) (f : Nat → Nat)
    (hf : ∀ n, f (n + a.retired.toNat) = n + b.toNat) :
    Kept c reach (some { a with retired := b }) (s.updPool a.pool fun q => { q with retired := f q.retired }) := by
  refine ok.updHand (b := { a with retired := b }) (f := fun q => { q with retired := f q.retired }) rfl rfl rfl rfl
    rfl rfl rfl rfl (fun n hn => ?_) (fun p n hn => hn) fun rc hr => ⟨rc, hr, rfl, rfl, fun p m hm => hm⟩
  change f (s.pool a.pool).retired = _
  rw [hn, hf]

/-- The hand with the charge of one port changed. -/
def Hand.recharged (a : Hand) (p : Port) (b : Bool) : Hand := { a with charged := Function.update a.charged p b }

theorem chargedHand_recharged (a : Hand) (p q : Port) (b : Bool) {n : Nat} (hn : a.handle < n) :
    chargedHand (some (a.recharged p b)) a.pool q n = if q = p then b.toNat else chargedHand (some a) a.pool q n := by
  by_cases e : q = p
  · subst e
    cases b <;> simp [chargedHand, Hand.recharged, hn]
  · simp [chargedHand, Hand.recharged, e]

theorem chargedHand_toNat (a : Hand) (p : Port) {n : Nat} (hn : a.handle < n) :
    chargedHand (some a) a.pool p n = (a.charged p).toNat := by
  simp only [chargedHand, Option.any_some, decide_true, Bool.true_and, hn]
  cases a.charged p <;> rfl

theorem chargedHand_above (a : Hand) (k : PoolId) (p : Port) {n : Nat} (hn : n ≤ a.handle) :
    chargedHand (some a) k p n = 0 := by
  simp [chargedHand, not_lt.2 hn]

theorem vector_set_get {α : Type} (v : Vector α 4) (p q : Port) (y : α) :
    (v.set p.val y p.isLt)[q] = if q = p then y else v[q] := by
  by_cases e : q = p
  · subst e; simp
  · have : p.val ≠ q.val := fun h => e (Fin.ext h.symm)
    simp [e, this]

/-- The charge of one port, and its shadow charge below the pointer, come to count the handle in hand, or no longer
do (R22, R89). -/
theorem Kept.recharge (ok : Kept c reach (some a) s) (pointer : ∀ n, reach a.pool n = n) (p : Port) (b : Bool)
    (f : Nat → Nat) (hf : ∀ n, f (n + (a.charged p).toNat) = n + b.toNat) :
    Kept c reach (some (a.recharged p b)) (s.updPool a.pool fun q => q.adjustCharge a.handle p f) := by
  have below : a.handle < 4096 := by
    obtain ⟨hc, -⟩ := ok.hand a rfl
    obtain ⟨hk, -, hl⟩ := (covers_iff _ _).1 hc
    exact hl.trans_le (ok.pools a.pool hk).last
  have moved : ∀ (v : Vector Nat 4) (q : Port) m n, a.handle < n →
      v[q] = m + chargedHand (some a) a.pool q n →
      (v.set p.val (f v[p]) p.isLt)[q] = m + chargedHand (some (a.recharged p b)) a.pool q n := by
    intro v q m n hn hv
    rw [vector_set_get, chargedHand_recharged a p q b hn]
    split
    · next e =>
      subst e
      rw [hv, chargedHand_toNat a q hn, hf]
    · exact hv
  refine ok.updHand (b := a.recharged p b) (f := fun q => q.adjustCharge a.handle p f) rfl rfl rfl rfl rfl rfl rfl rfl
    (fun n hn => hn) (fun q m hm => moved _ q m _ below hm) fun rc' hr => ?_
  obtain ⟨rc, hrc, rfl⟩ := Option.map_eq_some_iff.1 hr
  refine ⟨rc, hrc, ?_⟩
  rw [pointer]
  split
  · next hl => exact ⟨rfl, rfl, fun q m hm => moved _ q m _ hl hm⟩
  · next hl =>
    refine ⟨rfl, rfl, fun q m hm => ?_⟩
    rw [chargedHand_above _ _ _ (not_lt.1 hl)] at hm
    rw [hm, chargedHand_above (a.recharged p b) _ _ (not_lt.1 hl)]

end

end Sys2Proof.Machine
end

section
/-! PROOFS. The shared operations keep the accounts: teardown (R40), disposal (R9, R30, R53), the check-fault path (R13
to R16), drops (R70, R123), the prologue (R122) and the reclaim step (R125). -/

namespace Sys2Proof.Machine

section
variable {c : Prop} {reach : PoolId → Nat → Nat} {s : State}

/-! ### Teardown and drain completion (R39, R40) -/

theorem countP_three (l : List Nat) (P Q : Nat → Bool) :
    l.countP P + l.countP (fun h => !P h && Q h) + l.countP (fun h => !P h && !Q h) = l.length := by
  induction l with
  | nil => rfl
  | cons a l ih =>
    simp only [List.countP_cons, List.length_cons]
    cases P a <;> cases Q a <;> simp <;> omega

/-- Where depth plus retired is the count, every handle of the pool is on the stack or RETIRED. -/
theorem Kept.none_treatedInUse (ok : Kept c reach none s) {k : PoolId} (hk : (s.pool k).state ≠ .unconfigured)
    (hd : (s.pool k).depth + (s.pool k).retired = (s.pool k).count) (h : HandleNo) : s.treatedInUse k h = false := by
  have fits := ok.pools k hk
  have stacked : (s.pool k).range.countP (fun h => (s.pool k).stack.contains h) = (s.pool k).depth := by
    rw [List.countP_eq_length_filter, PoolRec.depth]
    refine List.Perm.length_eq ((List.perm_ext_iff_of_nodup ((range_nodup _).filter _) fits.nodup).2 fun j => ?_)
    simp only [List.mem_filter, List.contains_iff_mem]
    exact ⟨And.right, fun hm => ⟨mem_range_of_covers (fits.covered j hm), hm⟩⟩
  have all := countP_three (s.pool k).range (fun h => (s.pool k).stack.contains h) fun h =>
    (s.record h).state.isRetired
  have retired := fits.retired
  rw [retiredHand_none, Nat.add_zero, retiredBut_none, State.retiredIn] at retired
  rw [stacked, ← retired, hd, show (s.pool k).range.length = (s.pool k).count from List.length_range'] at all
  have none : (s.pool k).range.countP
      (fun h => !(s.pool k).stack.contains h && !(s.record h).state.isRetired) = 0 :=
    Nat.add_left_cancel (all.trans (Nat.add_zero _).symm)
  by_contra hu
  rw [Bool.not_eq_false, treatedInUse_iff] at hu
  obtain ⟨hc, hs, hr⟩ := hu
  refine List.countP_eq_zero.1 none h (mem_range_of_covers hc) ?_
  simp [hs, hr]

theorem Kept.teardown (ok : Kept c reach none s) {k : PoolId} (hk : (s.pool k).state ≠ .unconfigured)
    (hd : (s.pool k).depth + (s.pool k).retired = (s.pool k).count) : Kept c reach none (s.teardown k) := by
  obtain ⟨inside, outside, b⟩ := teardown_meets ok.ready k
  have spans : ∀ h, (s.pool k).spans h ↔ (s.pool k).covers h = true := fun h =>
    ⟨fun hs => (covers_iff _ _).2 ⟨hk, hs⟩, fun hc => ((covers_iff _ _).1 hc).2⟩
  have gone : (s.teardown k).pool k = .unconfigured := by rw [b.pool, changeAt_self]
  have other : ∀ {j}, j ≠ k → (s.teardown k).pool j = s.pool j := fun hj => by rw [b.pool, changeAt_ne _ hj]
  have covers : ∀ j h, (s.pool k).covers h = false → ((s.teardown k).pool j).covers h = (s.pool j).covers h := by
    intro j h hc
    by_cases e : j = k
    · subst e; rw [gone, hc]; rfl
    · rw [other e]
  have uncovered : ∀ {j h}, j ≠ k → (s.pool j).covers h = true → (s.pool k).covers h = false := by
    intro j h hj hc
    by_contra hck
    exact hj (ok.apart j k h hc (by simpa using hck))
  have record : ∀ {h}, (s.pool k).covers h = false → (s.teardown k).record h = s.record h := fun hc =>
    outside _ fun hs => by rw [(spans _).1 hs] at hc; cases hc
  have naming : ∀ q h, ((s.teardown k).member q).inbound.naming h = (s.member q).inbound.naming h := fun q h => by
    rw [b.member]
  have same : ∀ {j}, j ≠ k → SameRecords none none s (s.teardown k) j := fun hj =>
    ⟨fun _ _ => rfl, fun h hc _ => record (uncovered hj hc)⟩
  have alike : ∀ {j}, j ≠ k → (s.pool j).Alike ((s.teardown k).pool j) := fun hj => by rw [other hj]; exact .refl _
  refine ⟨b.device.trans ok.ready, fun j hj => ?_, fun j hj => ?_, fun i j h hi hj => ?_, fun h _ => ?_,
    fun cc j hj => ?_, fun a ha => by cases ha⟩
  · by_cases e : j = k
    · subst e; exact gone
    · rw [other e] at hj ⊢; exact ok.unconfigured j hj
  · have e : j ≠ k := by rintro rfl; rw [gone] at hj; exact hj rfl
    have hj' := hj
    rw [other e] at hj'
    exact (ok.pools j hj').alike hj' (same e) (.refl s j none) (alike e)
  · have ei : i ≠ k := by rintro rfl; rw [gone] at hi; cases hi
    have ej : j ≠ k := by rintro rfl; rw [gone] at hj; cases hj
    rw [other ei] at hi
    rw [other ej] at hj
    exact ok.apart i j h hi hj
  · rcases hc : (s.pool k).covers h with _ | _
    · refine (ok.handles h rfl).congr (record hc) (fun j => covers j h hc) (fun j => ?_) (fun q => naming q h)
      by_cases e : j = k
      · subst e
        rw [gone]
        refine ⟨fun hm => (by cases hm), fun hm => ?_⟩
        rw [ok.covers_of_stack hm] at hc
        cases hc
      · rw [other e]
    · have none : ∀ j, ((s.teardown k).pool j).covers h = false := by
        intro j
        by_cases e : j = k
        · subst e; rw [gone]; rfl
        · rw [other e]
          by_contra hj
          exact e (ok.apart j k h (by simpa using hj) hc)
      refine HandleKept.blank (inside h ((spans h).2 hc)) rfl ?_ (fun j => ⟨nofun, fun hm => ?_⟩) ?_
      · exact ((poolOf_none_iff _ h).2 none).symm
      · by_cases e : j = k
        · subst e; rw [gone] at hm; cases hm
        · rw [other e] at hm
          exact absurd (ok.stack_eq hc hm) e
      · have count : (s.teardown k).deliveriesOf h = s.deliveriesOf h := deliveriesOf_congr fun q => by rw [naming]
        rw [count]
        refine ok.noDelivery rfl fun j => ?_
        by_cases e : j = k
        · subst e; exact ok.none_treatedInUse hk hd h
        · by_contra hu
          rw [Bool.not_eq_false, treatedInUse_iff] at hu
          exact e (ok.apart j k h hu.1 hc)
  · have e : j ≠ k := by rintro rfl; rw [gone] at hj; exact hj rfl
    have hj' := hj
    rw [other e] at hj'
    exact (ok.charges cc j hj').alike hj' (same e) (.refl s j none) (alike e)

theorem Kept.drainTest (ok : Kept c reach none s) (k : PoolId) : Kept c reach none (s.drainTest k) := by
  rw [State.drainTest]
  split
  · next hd =>
    obtain ⟨draining, full⟩ := (drained_iff _).1 hd
    exact ok.teardown (by rw [draining]; simp) full
  · exact ok

/-! ### Disposal (R9, R30, R53) -/

theorem Kept.fireWatch {x : Option Hand} (ok : Kept c reach x s) (k : PoolId) (p : Port)
    (hw : (s.pool k).state ≠ .unconfigured) : Kept c reach x (s.fireWatch k p) :=
  (ok.updPool k (f := fun q => { q with watches := q.watches.set p.val none p.isLt })
    ⟨Iff.rfl, fun e => absurd (congrArg PoolRec.state e) hw, rfl, rfl, rfl, rfl, .inl, rfl, rfl,
      fun rc h => ⟨rc, h, rfl, rfl, rfl⟩⟩).same rfl (fun _ => rfl) (fun _ => rfl) fun _ => rfl

theorem Kept.testWatch {x : Option Hand} (ok : Kept c reach x s) (k : PoolId) (p : Port) :
    Kept c reach x (s.testWatch k p) := by
  rw [testWatch_eq]
  split
  · next hf =>
    refine ok.fireWatch k p fun hk => ?_
    rw [ok.unconfigured k hk] at hf
    simp [PoolRec.firesAt, PoolRec.unconfigured] at hf
  · exact ok

theorem Kept.push {k : PoolId} {h : HandleNo} {g : BitVec 4} (ok : Kept c reach (some (.free k h)) s)
    (hr : s.record h = .blank (.free k) g) (hw : (s.pool k).waitList = []) (hd : s.deliveriesOf h = 0) :
    Kept c reach none (s.push k h) :=
  (((((ok.stackUp hr hw hd).testWatch k 0).testWatch k 1).testWatch k 2).testWatch k 3).drainTest k

theorem refs_ne_zero {r : HandleRec} {p : Port} (h : r.hold p ≠ 0) : r.refs ≠ 0 := by
  unfold HandleRec.refs
  fin_cases p <;> simp at h ⊢ <;> omega

theorem hold_eq_zero {r : HandleRec} (h : r.refs = 0) (p : Port) : r.hold p = 0 := by
  by_contra hp
  exact refs_ne_zero hp h

/-- A handle in hand that is IN_USE is put back. -/
theorem Kept.putBackUsed {k : PoolId} {h : HandleNo} {f : Port → Bool}
    (ok : Kept c reach (some ⟨k, h, false, f⟩) s) (hv : (s.record h).verifies = true)
    (hs : (s.record h).state = .inUse k) (charged : ∀ p, f p = decide ((s.record h).hold p ≠ 0))
    (refs : (s.record h).refs ≠ 0) (holds : ∀ p, (s.record h).hold p ≤ 7) (transit : (s.record h).transit ≤ 7)
    (carries : Carries s h (s.record h).transit (s.record h).gen) : Kept c reach none s := by
  obtain ⟨hc, off⟩ : (s.pool k).covers h = true ∧ h ∉ (s.pool k).stack := ok.hand _ rfl
  refine ok.putBack (by dsimp only; rw [hs]; rfl) (fun p => ?_)
    (.used hs (ok.poolOf_eq hc) (fun j hm => off (ok.stack_eq hc hm ▸ hm)) refs holds transit carries)
  simp [State.heldBy, hv, hs, charged p, HandleState.isInUse]

/-- A handle in hand that the retired count counts is put back RETIRED. -/
theorem Kept.putBackRetired {k : PoolId} {h : HandleNo} {f : Port → Bool} {reason : RetireReason} {g : BitVec 4}
    (ok : Kept c reach (some ⟨k, h, true, f⟩) s) (hr : s.record h = .blank (.retired k reason) g)
    (charged : ∀ p, f p = false) (hd : s.deliveriesOf h = 0) : Kept c reach none s := by
  obtain ⟨hc, off⟩ : (s.pool k).covers h = true ∧ h ∉ (s.pool k).stack := ok.hand _ rfl
  refine ok.putBack (by dsimp only; rw [hr]; rfl) (fun p => ?_)
    (.blank hr rfl (ok.poolOf_eq hc).symm (fun j => ⟨nofun, fun hm => ?_⟩) hd)
  · simp [State.heldBy, hr, charged p, HandleRec.blank, HandleState.isInUse]
  · exact absurd (ok.stack_eq hc hm ▸ hm) off

/-- The hand with one port's charge alone. -/
def Hand.heldBy (k : PoolId) (h : HandleNo) (p : Port) : Hand := ⟨k, h, false, Function.update (fun _ => false) p true⟩

/-- A handle in hand that one port alone has come to hold is put back (R47, R53). -/
theorem Kept.putBackHeld {k : PoolId} {h : HandleNo} {p : Port} {g : BitVec 4}
    (ok : Kept c reach (some (.heldBy k h p)) s) (record : s.record h = (HandleRec.blank (.inUse k) g).setHold p 1)
    (hd : s.deliveriesOf h = 0) : Kept c reach none s := by
  have hold : ∀ q, (s.record h).hold q = if q = p then 1 else 0 := by
    intro q
    rw [record, setHold_hold, blank_hold]
  refine Kept.putBackUsed ok (by rw [record]; rfl) (by rw [record]; rfl) (fun q => ?_)
    (refs_ne_zero (p := p) (by rw [hold]; simp)) (fun q => ?_) (by rw [record]; exact Nat.zero_le 7)
    ⟨by rw [record, hd]; rfl, fun q d hm => ?_⟩
  · rw [hold]
    by_cases e : q = p
    · subst e; simp
    · simp [e]
  · rw [hold]
    split <;> omega
  · rw [(deliveriesOf_zero_iff _ h).1 hd q] at hm
    cases hm

theorem Kept.grantTo {k : PoolId} {h : HandleNo} (ok : Kept c reach (some (.free k h)) s)
    (pointer : ∀ n, reach k n = n) (g : BitVec 4) {w : WaitEntry} {rest : List WaitEntry}
    (hw : (s.pool k).waitList = w :: rest) (hd : s.deliveriesOf h = 0) : Kept c reach none (s.grantTo k h g w rest) := by
  obtain ⟨hc, -⟩ : (s.pool k).covers h = true ∧ h ∉ (s.pool k).stack := ok.hand _ rfl
  have written := ok.write ((HandleRec.blank (.inUse k) g).setHold w.port 1)
  have raised := written.recharge pointer w.port true (· + 1) fun n => rfl
  have left := raised.updPool k (f := fun q => { q with waitList := rest }) (by
    rw [show (Hand.free k h).pool = k from rfl, updPool_pool_self]
    exact ⟨Iff.rfl, fun e => absurd (congrArg PoolRec.state e) (Kept.configured hc), rfl, rfl, rfl, rfl,
      fun _ => .inl (ne_of_eq_of_ne hw (List.cons_ne_nil w rest)), rfl, rfl, fun rc h => ⟨rc, h, rfl, rfl, rfl⟩⟩)
  have posted : Kept c reach (some (.heldBy k h w.port)) (s.grantTo k h g w rest) :=
    left.same rfl (fun _ => rfl) (fun _ => rfl) fun _ => rfl
  refine posted.putBackHeld (g := g) ?_ (hd ▸ deliveriesOf_congr fun q => by rw [grantTo_member])
  rw [(grantTo_meets ok.ready k h g w rest).record, changeAt_self]

/-- A handle in hand that nothing refers to is disposed of. -/
theorem Kept.dispose {k : PoolId} {h : HandleNo} (ok : Kept c reach (some (.free k h)) s)
    (pointer : ∀ n, reach k n = n) (hk : (s.record h).state.pool? = some k) (hd : s.deliveriesOf h = 0) :
    Kept c reach none (s.dispose h).1 := by
  rcases hw : (s.pool k).waitList with _ | ⟨w, rest⟩
  · rw [dispose_pushes hk hw]
    dsimp only
    have written : Kept c reach (some (.free k h)) (s.writeRecord h (.blank (.free k) ((s.record h).gen + 1))) :=
      ok.write _
    exact written.push (writeRecord_record_self ok.ready h (.blank (.free k) ((s.record h).gen + 1))) hw hd
  · rw [dispose_grants hk hw]
    dsimp only
    exact ok.grantTo pointer _ hw hd

/-- A handle in hand that has lost a reference is disposed of or put back (R8). -/
theorem Kept.disposeIfDone {k : PoolId} {h : HandleNo} {f : Port → Bool}
    (ok : Kept c reach (some ⟨k, h, false, f⟩) s) (pointer : ∀ n, reach k n = n)
    (hv : (s.record h).verifies = true) (hs : (s.record h).state = .inUse k)
    (charged : ∀ p, f p = decide ((s.record h).hold p ≠ 0)) (holds : ∀ p, (s.record h).hold p ≤ 7)
    (transit : (s.record h).transit ≤ 7) (carries : Carries s h (s.record h).transit (s.record h).gen) :
    Kept c reach none (s.disposeIfDone h).1 := by
  rw [State.disposeIfDone]
  by_cases refs : (s.record h).refs = 0
  · rw [if_pos refs]
    have free : f = fun _ => false := funext fun p => by rw [charged, hold_eq_zero refs]; rfl
    subst free
    refine Kept.dispose ok pointer (by rw [hs]; rfl) (carries.1.symm.trans ?_)
    unfold HandleRec.refs at refs
    omega
  · rw [if_neg refs]
    exact ok.putBackUsed hv hs charged refs holds transit carries

end

end Sys2Proof.Machine
end

section
/-! PROOFS. The check-fault path (R13 to R16), drops (R70, R123), the prologue (R122) and the reclaim step (R125) keep
the accounts. -/

namespace Sys2Proof.Machine

section
variable {c : Prop} {reach : PoolId → Nat → Nat} {s : State}

/-! ### The check-fault path (R13 to R16) -/

/-- The three acts of the path on a handle in hand: its record is written RETIRED, its deliveries go, and the fault is
counted. -/
def State.faulted (s : State) (k : PoolId) (h : HandleNo) : State :=
  ((s.writeRecord h (.blank (.retired k .check) ((s.record h).gen + 1))).removeDeliveries h).countFault

theorem Kept.faulted {a : Hand} (ok : Kept c reach (some a) s) :
    Kept c reach (some a) (s.faulted a.pool a.handle) :=
  ((ok.write _).removeDeliveries).countFault

theorem faulted_record (hd : s.device = .ready) (k : PoolId) (h : HandleNo) :
    (s.faulted k h).record h = .blank (.retired k .check) ((s.record h).gen + 1) :=
  writeRecord_record_self hd h (.blank (.retired k .check) ((s.record h).gen + 1))

theorem faulted_deliveriesOf (s : State) (k : PoolId) (h : HandleNo) : (s.faulted k h).deliveriesOf h = 0 :=
  removeDeliveries_deliveriesOf (s.writeRecord h (.blank (.retired k .check) ((s.record h).gen + 1))) h

/-- A damaged handle in hand that no count counts is retired (R15, R48). -/
theorem Kept.retireDamaged {k : PoolId} {h : HandleNo} (ok : Kept c reach (some (.free k h)) s) :
    Kept c reach none ((s.faulted k h).updPool k fun q => { q with retired := q.retired + 1 }) :=
  Kept.putBackRetired (ok.faulted.countRetired true (· + 1) fun _ => rfl) (faulted_record ok.ready k h) (fun _ => rfl)
    (faulted_deliveriesOf s k h)

theorem checkFault_popped {k : PoolId} {h : HandleNo} (hk : s.poolOf h = some k) :
    s.checkFault h true = (s.faulted k h).updPool k fun q => { q with retired := q.retired + 1 } := by
  simp only [State.checkFault, hk]
  rfl

/-- The path for a handle that ALLOCATE has popped (R48). -/
theorem Kept.checkFault_popped {k : PoolId} {h : HandleNo} (ok : Kept c reach (some (.free k h)) s) :
    Kept c reach none (s.checkFault h true) := by
  obtain ⟨hc, -⟩ : (s.pool k).covers h = true ∧ h ∉ (s.pool k).stack := ok.hand _ rfl
  rw [Machine.checkFault_popped (ok.poolOf_eq hc)]
  exact ok.retireDamaged

/-- The path for a handle of no pool (R16). -/
theorem Kept.writeUnassigned (ok : Kept c reach none s) {h : HandleNo} (hc : ∀ k, (s.pool k).covers h = false)
    (g : BitVec 4) : Kept c reach none (s.writeRecord h (.blank .unassigned g)) := by
  have other : ∀ {j}, j ≠ h → (s.writeRecord h (.blank .unassigned g)).record j = s.record j := fun hj =>
    writeRecord_record_ne hj _
  have same : ∀ k, SameRecords none none s (s.writeRecord h (.blank .unassigned g)) k := fun k =>
    ⟨fun _ _ => rfl, fun j hj _ => other fun e => by rw [e, hc k] at hj; cases hj⟩
  refine ⟨ok.ready, ok.unconfigured, fun k hk => (ok.pools k hk).alike hk (same k) (.refl s k none) (.refl _), ok.apart,
    fun j _ => ?_, fun cc k hk => (ok.charges cc k hk).alike hk (same k) (.refl s k none) (.refl _),
    fun a ha => by cases ha⟩
  by_cases e : j = h
  · subst e
    refine .blank (writeRecord_record_self ok.ready j _) rfl ((poolOf_none_iff s j).2 hc).symm
      (fun k => ⟨nofun, fun hm => ?_⟩) (ok.noDelivery rfl fun k => ?_)
    · have covered := ok.covers_of_stack (k := k) hm
      rw [hc k] at covered
      cases covered
    · simp [State.treatedInUse, hc k]
  · exact (ok.handles j rfl).congr (other e) (fun _ => rfl) (fun _ => Iff.rfl) fun _ => rfl

/-- What the path marks in a pool that loses a handle in use (R14). -/
def PoolRec.markedLost (q : PoolRec) : PoolRec :=
  { q with recountNeeded := true, recount := q.recount.map fun rc => { rc with disturbed := true } }

/-- A pool may always be marked: its charges then promise nothing. -/
theorem Kept.markLost (ok : Kept c reach none s) {k : PoolId} (hk : (s.pool k).state ≠ .unconfigured) :
    Kept c reach none (s.updPool k PoolRec.markedLost) := by
  have pool : (s.updPool k PoolRec.markedLost).pool k = (s.pool k).markedLost := updPool_pool_self s k _
  have fits := ok.pools k hk
  have alike : ReadsAlikeBut k none none s (s.updPool k PoolRec.markedLost) :=
    ⟨rfl, fun j hj => updPool_pool_ne s _ hj, by rw [pool]; rfl, by rw [pool]; rfl, by rw [pool]; rfl, fun _ _ => rfl,
      fun j _ => .refl s j none⟩
  have sameStack : ((s.updPool k PoolRec.markedLost).pool k).stack = (s.pool k).stack := by rw [pool]; rfl
  refine ok.onePool hk alike ⟨?_, ?_, ?_, fun j hj => ?_, fun hw => ?_, ?_⟩
    (fun cc => ⟨fun hn => ?_, fun rc hr => ?_⟩) (fun j _ => ?_) nofun
  · rw [pool]; exact fits.count_pos
  · rw [pool]; exact fits.last
  · rw [pool]; exact fits.nodup
  · rw [alike.covers]
    rw [pool] at hj
    exact fits.covered j hj
  · rw [pool] at hw ⊢
    exact fits.waiting hw
  · rw [retiredBut_eq (t := s.updPool k PoolRec.markedLost) hk ⟨fun _ _ => rfl, fun _ _ _ => rfl⟩ sameStack alike.range,
      pool]
    exact fits.retired
  · rw [pool] at hn; cases hn
  · rw [pool] at hr
    obtain ⟨rc, hrc, rfl⟩ := Option.map_eq_some_iff.1 hr
    obtain ⟨first_le, lt_last, -, -⟩ := (ok.charges cc k hk).recount rc hrc
    exact ⟨by rw [pool]; exact first_le, by rw [pool]; exact lt_last, fun _ => by rw [pool]; rfl, nofun⟩
  · refine (ok.handles j rfl).congr rfl (fun i => alike.covers i j) (fun i => ?_) fun _ => rfl
    rw [updPool_pool]
    split
    · next e => subst e; exact Iff.rfl
    · exact Iff.rfl

theorem markedLost_lost (q : PoolRec) : q.markedLost.Lost := by
  refine ⟨rfl, fun rc hr => ?_⟩
  obtain ⟨rc', -, rfl⟩ := Option.map_eq_some_iff.1 hr
  rfl

/-- A damaged handle that was treated as IN_USE is retired, and its pool marked (R14). -/
theorem Kept.loseInUse (ok : Kept c reach none s) {k : PoolId} {h : HandleNo} (hu : s.treatedInUse k h = true)
    (hv : (s.record h).verifies = false) : Kept c reach none ((s.faulted k h).updPool k PoolRec.lostInUse) := by
  obtain ⟨hc, hs, hr⟩ := (treatedInUse_iff s k h).1 hu
  have pool : (s.updPool k PoolRec.markedLost).pool k = (s.pool k).markedLost := updPool_pool_self s k _
  have marked := ok.markLost (Kept.configured hc)
  have inHand : Kept c reach (some (.free k h)) (s.updPool k PoolRec.markedLost) := by
    have hand : (s.updPool k PoolRec.markedLost).handOf k h = .free k h := by
      refine congrArg₂ (Hand.mk k h) hr (funext fun p => ?_)
      simp [State.heldBy, hv]
    rw [← hand]
    exact marked.pick (by rw [pool]; exact hc) (by rw [pool]; exact hs) (.inr (.inr (by rw [pool]; exact markedLost_lost _)))
  have retired := inHand.retireDamaged
  rwa [show ((s.updPool k PoolRec.markedLost).faulted k h) = (s.faulted k h).updPool k PoolRec.markedLost from rfl,
    updPool_updPool] at retired

/-- The path for a handle that is not popped. -/
theorem Kept.checkFault (ok : Kept c reach none s) {h : HandleNo} (hv : (s.record h).verifies = false) :
    Kept c reach none (s.checkFault h false) := by
  unfold State.checkFault
  dsimp only
  split
  · next hk => exact (ok.writeUnassigned ((poolOf_none_iff s h).1 hk) _).countFault
  · next k hk =>
    have hc := poolOf_covers hk
    rw [if_neg (by simp)]
    split
    · next hm =>
      have retired := (ok.unstack (List.contains_iff_mem.1 hm)).retireDamaged
      rwa [show ((s.updPool k fun q => { q with stack := q.stack.erase h }).faulted k h)
        = (s.faulted k h).updPool k fun q => { q with stack := q.stack.erase h } from rfl, updPool_updPool] at retired
    · next hm =>
      have off : h ∉ (s.pool k).stack := fun h' => hm (List.contains_iff_mem.2 h')
      split
      · next j reason hr =>
        have picked := (ok.pick hc off (.inr (.inl (by rw [hr]; rfl)))).faulted
        have hand : s.handOf k h = ⟨k, h, true, fun _ => false⟩ := by
          refine congrArg₂ (Hand.mk k h) (by rw [hr]; rfl) (funext fun p => ?_)
          simp [State.heldBy, hv]
        rw [hand] at picked
        exact picked.putBackRetired (faulted_record ok.ready k h) (fun _ => rfl) (faulted_deliveriesOf s k h)
      all_goals
        next hr =>
          have used : s.treatedInUse k h = true := (treatedInUse_iff s k h).2 ⟨hc, off, by rw [hr]; rfl⟩
          exact (ok.loseInUse used hv).drainTest k

theorem Kept.raiseOnline {x : Option Hand} (ok : Kept c reach x s) (cause : Cause) (ps : List Port) :
    Kept c reach x (s.raiseOnline cause ps) :=
  ok.same (raiseOnline_device ..) (fun k => by simp [State.pool]) (fun h => by simp [State.record])
    fun q => by rw [raiseOnline_member]

theorem Kept.sweepFault (ok : Kept c reach none s) {h : HandleNo} (hv : (s.record h).verifies = false) :
    Kept c reach none (s.sweepFault h) := (ok.checkFault hv).raiseOnline _ _

theorem Kept.answerFault (ok : Kept c reach none s) {h : HandleNo} (hv : (s.record h).verifies = false) (p : Port)
    (e : Entry) : Kept c reach none (s.answerFault p e h) :=
  (ok.checkFault hv).same rfl (fun _ => rfl) (fun _ => rfl) fun _ => rfl

/-! ### A handle in use in hand -/

/-- A handle in use, in hand as its record has it. -/
def Hand.used (k : PoolId) (h : HandleNo) (r : HandleRec) : Hand := ⟨k, h, false, fun p => decide (r.hold p ≠ 0)⟩

theorem Kept.pickUsed (ok : Kept c reach none s) {k : PoolId} {h : HandleNo} (hv : (s.record h).verifies = true)
    (hs : (s.record h).state = .inUse k) : Kept c reach (some (.used k h (s.record h))) s := by
  obtain ⟨pool, off, -⟩ := (ok.handles h rfl).of_inUse hv hs
  have hand : s.handOf k h = .used k h (s.record h) := by
    refine congrArg₂ (Hand.mk k h) (by rw [hs]; rfl) (funext fun p => ?_)
    simp [State.heldBy, hv, hs, HandleState.isInUse]
  rw [← hand]
  exact ok.pick (poolOf_covers pool) (off k) (.inl hv)

/-- The port's hold falls to n, and its charge with it where that is 0. -/
theorem Kept.lowerHold {k : PoolId} {h : HandleNo} {r r' : HandleRec} {p : Port} {n : Nat}
    (ok : Kept c toPointer (some (.used k h r)) s) (hp : r.hold p ≠ 0)
    (hold : ∀ q, r'.hold q = if q = p then n else r.hold q) :
    Kept c toPointer (some (.used k h r')) ((if n = 0 then s.lowerCharge k h p else s).writeRecord h r') := by
  by_cases hn : n = 0
  · rw [if_pos hn]
    have lowered := (ok.recharge (fun _ => rfl) p false (· - 1) fun m => by simp [Hand.used, hp]).write r'
    have hand : (Hand.used k h r).recharged p false = .used k h r' := by
      refine congrArg (Hand.mk k h false) (funext fun q => ?_)
      rw [hold, hn]
      by_cases e : q = p
      · subst e; simp
      · simp [Hand.used, e]
    rw [hand] at lowered
    exact lowered
  · rw [if_neg hn]
    have hand : Hand.used k h r = .used k h r' := by
      refine congrArg (Hand.mk k h false) (funext fun q => ?_)
      rw [hold]
      by_cases e : q = p
      · subst e; simp [hp, hn]
      · simp [e]
    rw [hand] at ok
    exact ok.write r'

/-- The port's hold rises by 1, and its charge with it where it was 0. -/
theorem Kept.raiseHold {k : PoolId} {h : HandleNo} {r r' : HandleRec} {p : Port}
    (ok : Kept c toPointer (some (.used k h r)) s)
    (hold : ∀ q, r'.hold q = if q = p then r.hold p + 1 else r.hold q) :
    Kept c toPointer (some (.used k h r'))
      ((if r.hold p = 0 then s.raiseCharge k h p else s).writeRecord h r') := by
  by_cases hp : r.hold p = 0
  · rw [if_pos hp]
    have raised := (ok.recharge (fun _ => rfl) p true (· + 1) fun m => by simp [Hand.used, hp]).write r'
    have hand : (Hand.used k h r).recharged p true = .used k h r' := by
      refine congrArg (Hand.mk k h false) (funext fun q => ?_)
      rw [hold]
      by_cases e : q = p
      · subst e; simp
      · simp [Hand.used, e]
    rw [hand] at raised
    exact raised
  · rw [if_neg hp]
    have hand : Hand.used k h r = .used k h r' := by
      refine congrArg (Hand.mk k h false) (funext fun q => ?_)
      rw [hold]
      by_cases e : q = p
      · subst e; simp [hp]
      · simp [e]
    rw [hand] at ok
    exact ok.write r'

end

end Sys2Proof.Machine
end

section
/-! PROOFS. Drops (R70, R123), the prologue (R122) and the reclaim step (R125) keep the accounts. -/

namespace Sys2Proof.Machine

section
variable {c : Prop} {reach : PoolId → Nat → Nat} {s : State}

/-! ### A delivery and the record it names -/

theorem deliveriesOf_pos {p : Port} {d : Delivery} {cl : DeliveryClass}
    (hc : (s.member p).inbound.chosen = some (d, cl)) : 0 < s.deliveriesOf (tokenHandle d.token) := by
  refine Nat.pos_of_ne_zero fun hz => ?_
  have none := (deliveriesOf_zero_iff s _).1 hz p
  rw [naming_chosen hc, if_pos (by simp [Delivery.names])] at none
  cases none

/-- The record of a chosen delivery that verifies is IN_USE, and counts it (R69). -/
theorem Kept.used_of_chosen (ok : Kept c reach none s) {p : Port} {d : Delivery} {cl : DeliveryClass}
    (hc : (s.member p).inbound.chosen = some (d, cl)) (hv : (s.record (tokenHandle d.token)).verifies = true) :
    ∃ k, (s.record (tokenHandle d.token)).state = .inUse k ∧ 0 < (s.record (tokenHandle d.token)).transit := by
  have kept := ok.handles (tokenHandle d.token) rfl
  have pos := deliveriesOf_pos hc
  obtain ⟨k, hk⟩ := kept.inUse pos
  obtain ⟨covers, off, notRetired⟩ := (treatedInUse_iff s k _).1 hk
  obtain ⟨pool, free, -, -, -, -, transits, -⟩ := kept.record hv
  rw [ok.poolOf_eq covers] at pool
  rcases hs : (s.record (tokenHandle d.token)).state with _ | j | j | ⟨j, reason⟩
  · rw [hs] at pool; cases pool
  · rw [hs] at pool free
    cases pool
    exact absurd ((free k).1 rfl) off
  · exact ⟨j, rfl, transits ▸ pos⟩
  · rw [hs] at notRetired; cases notRetired

/-- The last chosen delivery of the port may leave where its record is damaged, and so counts nothing. -/
theorem Kept.popDamaged (ok : Kept c reach none s) {p : Port} {d : Delivery} {cl : DeliveryClass}
    (hc : (s.member p).inbound.chosen = some (d, cl)) (hv : (s.record (tokenHandle d.token)).verifies = false) :
    Kept c reach none (s.popDelivery p) := by
  have same : ∀ k, SameRecords none none s (s.popDelivery p) k := fun k => ⟨fun _ _ => rfl, fun _ _ _ => rfl⟩
  refine ⟨ok.ready, ok.unconfigured, fun k hk => (ok.pools k hk).alike hk (same k) (.refl s k none) (.refl _),
    ok.apart, fun h _ => ?_, fun cc k hk => (ok.charges cc k hk).alike hk (same k) (.refl s k none) (.refl _), nofun⟩
  by_cases e : tokenHandle d.token = h
  · subst e
    exact ⟨fun hv' => absurd (hv'.symm.trans hv) nofun, fun _ => (ok.handles _ rfl).inUse (deliveriesOf_pos hc)⟩
  · refine (ok.handles h rfl).congr rfl (fun _ => rfl) (fun _ => Iff.rfl) fun q => ?_
    by_cases eq : q = p
    · subst eq
      rw [popDelivery_member_self]
      exact naming_tail_ne hc e
    · rw [popDelivery_member_ne _ eq]

/-! ### Putting back or disposing of the handle once its record is written -/

/-- The record written of a handle in use, and the deliveries it is to agree with. -/
structure UsedRecord (s : State) (k : PoolId) (h : HandleNo) (r : HandleRec) : Prop where
  state : r.state = .inUse k
  holds : ∀ p, r.hold p ≤ 7
  transit : r.transit ≤ 7
  carries : Carries s h r.transit r.gen

theorem Kept.usedRecord (ok : Kept c reach none s) {k : PoolId} {h : HandleNo} (hv : (s.record h).verifies = true)
    (hs : (s.record h).state = .inUse k) : UsedRecord s k h (s.record h) := by
  obtain ⟨-, -, -, holds, transit, carries⟩ := (ok.handles h rfl).of_inUse hv hs
  exact ⟨hs, holds, transit, carries⟩

theorem UsedRecord.congr {t : State} {k : PoolId} {h : HandleNo} {r : HandleRec} (u : UsedRecord s k h r)
    (inbound : ∀ q, (t.member q).inbound = (s.member q).inbound) : UsedRecord t k h r := by
  refine ⟨u.state, u.holds, u.transit, u.carries.1.trans (deliveriesOf_congr fun q => by rw [inbound]).symm, fun q => ?_⟩
  rw [inbound]
  exact u.carries.2 q

theorem UsedRecord.setHold {k : PoolId} {h : HandleNo} {r : HandleRec} (u : UsedRecord s k h r) (p : Port) {n : Nat}
    (hn : n ≤ 7) : UsedRecord s k h (r.setHold p n) := by
  refine ⟨u.state, fun q => ?_, u.transit, u.carries⟩
  rw [setHold_hold]
  split
  · exact hn
  · exact u.holds q

theorem Kept.disposeWritten {k : PoolId} {h : HandleNo} {r : HandleRec} (ok : Kept c reach (some (.used k h r)) s)
    (pointer : ∀ n, reach k n = n) (record : s.record h = { r with verifies := true }) (used : UsedRecord s k h r) :
    Kept c reach none (s.disposeIfDone h).1 := by
  refine Kept.disposeIfDone ok pointer ?_ ?_ (fun p => ?_) (fun p => ?_) ?_ ?_ <;> rw [record]
  · exact used.state
  · rfl
  · exact used.holds p
  · exact used.transit
  · exact used.carries

theorem Kept.putBackWritten {k : PoolId} {h : HandleNo} {r : HandleRec} (ok : Kept c reach (some (.used k h r)) s)
    (record : s.record h = { r with verifies := true }) (used : UsedRecord s k h r) (refs : r.refs ≠ 0) :
    Kept c reach none s := by
  refine Kept.putBackUsed ok ?_ ?_ (fun p => ?_) ?_ (fun p => ?_) ?_ ?_ <;> rw [record]
  · exact used.state
  · rfl
  · exact refs
  · exact used.holds p
  · exact used.transit
  · exact used.carries

/-! ### Drops (R70, R123) -/

/-- A chosen delivery whose record verifies is dropped. -/
theorem Kept.drop (ok : Kept c reach none s) (pointer : ∀ k n, reach k n = n) {p : Port} {d : Delivery}
    {cl : DeliveryClass} (hc : (s.member p).inbound.chosen = some (d, cl))
    (hv : (s.record (tokenHandle d.token)).verifies = true) :
    Kept c reach none ((s.popDelivery p).lowerTransit (tokenHandle d.token)).1 := by
  obtain ⟨k, hs, -⟩ := ok.used_of_chosen hc hv
  have used := ok.usedRecord hv hs
  have popped := (ok.pickUsed hv hs).popDelivery hc rfl
  have written : Kept c reach (some (.used k (tokenHandle d.token) (s.record (tokenHandle d.token))))
      ((s.popDelivery p).writeRecord (tokenHandle d.token)
        { s.record (tokenHandle d.token) with transit := (s.record (tokenHandle d.token)).transit - 1 }) :=
    popped.write _
  exact Kept.disposeWritten (r := { s.record (tokenHandle d.token) with
      transit := (s.record (tokenHandle d.token)).transit - 1 }) written (pointer k)
    (writeRecord_record_self (s := s.popDelivery p) ok.ready _ _)
    ⟨hs, used.holds, (Nat.sub_le _ 1).trans used.transit, used.carries.popped hc⟩

theorem Kept.dropAll (pointer : ∀ k n, reach k n = n) (p : Port) (fuel : Nat) (ok : Kept c reach none s) :
    Kept c reach none (State.dropAll p fuel s).1 := by
  induction fuel generalizing s with
  | zero => exact ok
  | succ fuel ih =>
    rw [State.dropAll]
    split
    · exact ok
    · next d cl hc =>
      dsimp only
      split
      · next hv => exact ih (ok.drop pointer hc hv)
      · next hv =>
        rw [Bool.not_eq_true] at hv
        exact ih ((ok.popDamaged hc hv).sweepFault hv)

/-! ### The prologue (R122) -/

theorem forget_alike (q : PoolRec) (p : Port) : q.Alike (q.forget p) := by
  refine ⟨Iff.rfl, fun e => ?_, rfl, rfl, rfl, rfl, fun hw => .inl fun e => hw ?_, rfl, rfl, fun rc' hr => ?_⟩
  · subst e
    have watches : (Vector.replicate 4 (none : Option Nat)).set p.val none p.isLt = Vector.replicate 4 none := by
      ext i hi
      simp
    simp [PoolRec.forget, PoolRec.unconfigured, watches]
  · simp [PoolRec.forget, e]
  · obtain ⟨rc, hrc, rfl⟩ := Option.map_eq_some_iff.1 hr
    exact ⟨rc, hrc, rfl, rfl, rfl⟩

theorem Kept.departFrom (ok : Kept c reach none s) (p : Port) : Kept c reach none (s.departFrom p) := by
  refine ok.readsAlike ⟨rfl, fun k => ?_, fun _ _ => rfl, fun h _ q => ?_⟩
  · rw [departFrom_pool]
    exact forget_alike _ p
  · rw [departFrom_member]
    split
    · next e => rw [e]
    · rfl

theorem Kept.prologue (ok : Kept c reach none s) (pointer : ∀ k n, reach k n = n) (p : Port) :
    Kept c reach none (s.prologue p).1 :=
  Kept.raiseOnline (Kept.dropAll pointer p _ (ok.departFrom p)) _ _

/-! ### The reclaim step (R125) -/

theorem Kept.sweepOne (ok : Kept c toPointer none s) (p : Port) (h : HandleNo) :
    Kept c toPointer none (s.sweepOne p h) := by
  unfold State.sweepOne
  dsimp only
  split
  · next hv => exact ok.sweepFault (by simpa using hv)
  · next hv =>
    have hv' : (s.record h).verifies = true := by simpa using hv
    split
    · next k hs =>
      split
      · exact ok
      · next hp =>
        have lowered := (ok.pickUsed hv' hs).lowerHold (r' := (s.record h).setHold p 0) hp fun q => setHold_hold _ p q 0
        rw [if_pos rfl] at lowered
        exact lowered.disposeWritten (fun _ => rfl) (writeRecord_record_self (s := s.lowerCharge k h p) ok.ready h _)
          (((ok.usedRecord hv' hs).setHold p (Nat.zero_le 7)).congr fun _ => rfl)
    all_goals exact ok

theorem Kept.sweepAll (p : Port) (hs : List HandleNo) (ok : Kept c toPointer none s) :
    Kept c toPointer none (s.sweepAll p hs) := by
  induction hs generalizing s with
  | nil => exact ok
  | cons h hs ih => exact ih (ok.sweepOne p h)

theorem Kept.reclaimSlice (ok : Kept c toPointer none s) (p : Port) (n : Nat) :
    Kept c toPointer none (s.reclaimSlice p n) := by
  refine Kept.same (Kept.sweepAll p (List.range' n 16) ok) rfl (fun _ => rfl) (fun _ => rfl) fun q => ?_
  rw [State.reclaimSlice, updMember_member]
  split
  · next e => rw [e]
  · rfl

end

end Sys2Proof.Machine
end

section
/-! PROOFS. The commands that read a token, and those that pass handles between ports, keep the accounts (R60, R62,
R63, R71 to R82). -/

namespace Sys2Proof.Machine

section
variable {c : Prop} {s : State}

/-! ### Answers and checks -/

theorem Kept.answer {reach : PoolId → Nat → Nat} {x : Option Hand} (ok : Kept c reach x s) (p : Port) (e : Entry)
    (st : Status) (d : Data) : Kept c reach x (s.answer p e st d) :=
  ok.same rfl (fun _ => rfl) (fun _ => rfl) fun _ => rfl

theorem validToken_of_validate {t : Word} {k : PoolId} (hv : s.validate t = .valid k) :
    ValidToken s t (tokenHandle t) k := by
  rcases verifies : (s.record (tokenHandle t)).verifies with _ | _
  · simp [State.validate, verifies] at hv
  · rcases hs : (s.record (tokenHandle t)).state with _ | j | j | ⟨j, reason⟩ <;>
      simp only [State.validate, verifies, hs, Bool.not_true, Bool.false_eq_true, if_false] at hv
    · cases hv
    · cases hv
    · split at hv
      · next hg => cases hv; exact ⟨rfl, verifies, hs, hg⟩
      · cases hv
    · split at hv <;> cases hv

theorem verifies_of_validate_fault {t : Word} (hv : s.validate t = .fault) :
    (s.record (tokenHandle t)).verifies = false := by
  by_contra verifies
  rw [Bool.not_eq_false] at verifies
  rcases hs : (s.record (tokenHandle t)).state with _ | j | j | ⟨j, reason⟩ <;>
    simp only [State.validate, verifies, hs, Bool.not_true, Bool.false_eq_true, if_false] at hv
  case inUse => split at hv <;> cases hv
  case retired => split at hv <;> cases hv
  all_goals cases hv

theorem Kept.withToken (ok : Kept c toPointer none s) {p : Port} {e : Entry} {body : HandleNo → PoolId → State}
    (hb : ∀ h k, ValidToken s e.arg0 h k → (s.record h).hold p ≠ 0 → Kept c toPointer none (body h k)) :
    Kept c toPointer none (s.withToken p e body) := by
  unfold State.withToken
  dsimp only
  split
  · next hv => exact ok.answerFault (verifies_of_validate_fault hv) p e
  · exact ok.answer ..
  · exact ok.answer ..
  · next k hv =>
    split
    · exact ok.answer ..
    · next hp => exact hb _ k (validToken_of_validate hv) hp

theorem Kept.withHandle (ok : Kept c toPointer none s) {p : Port} {e : Entry} {body : HandleNo → HandleRec → State}
    (hb : ∀ h, (s.record h).verifies = true → Kept c toPointer none (body h (s.record h))) :
    Kept c toPointer none (s.withHandle p e body) := by
  unfold State.withHandle
  split
  · exact ok.answer ..
  · next h _ =>
    split
    · exact ok.answer ..
    · split
      · next hv => exact ok.answerFault (by simpa using hv) p e
      · next hv => exact hb h (by simpa using hv)

theorem verified_eq {r : HandleRec} (hv : r.verifies = true) : r = { r with verifies := true } := by
  rw [← hv]

theorem written_record {h : HandleNo} {r : HandleRec} (hd : (s.writeRecord h r).device = .ready) :
    (s.writeRecord h r).record h = { r with verifies := true } :=
  writeRecord_record_self (s := s) hd h r

/-! ### Holding (R60, R62, R63) and INSPECT (R20) -/

section
variable (p : Port) (e : Entry)

theorem Kept.releaseBody (ok : Kept c toPointer none s) : Kept c toPointer none (releaseBody p e s) := by
  refine ok.withToken fun h k valid hp => ?_
  obtain ⟨-, hv, hs, -⟩ := valid
  have used := ok.usedRecord hv hs
  have lowered := (ok.pickUsed hv hs).lowerHold (r' := (s.record h).setHold p ((s.record h).hold p - 1)) hp
    fun q => setHold_hold _ p q _
  refine Kept.answer (lowered.disposeWritten (fun _ => rfl) (written_record lowered.ready)
    ((used.setHold p ((Nat.sub_le _ 1).trans (used.holds p))).congr fun q => ?_)) p e _ _
  split <;> rfl

theorem Kept.retainBody (ok : Kept c toPointer none s) : Kept c toPointer none (retainBody p e s) := by
  refine ok.withToken fun h k valid hp => ?_
  obtain ⟨-, hv, hs, -⟩ := valid
  have used := ok.usedRecord hv hs
  dsimp only
  split
  · exact ok.answer ..
  · next limit =>
    have raised := (ok.pickUsed hv hs).raiseHold (r' := (s.record h).setHold p ((s.record h).hold p + 1)) (p := p)
      fun q => setHold_hold _ p q _
    rw [if_neg hp] at raised
    refine Kept.answer (raised.putBackWritten (written_record raised.ready)
      ((used.setHold p ?_).congr fun _ => rfl) (refs_ne_zero (p := p) ?_)) p e _ _
    · have := used.holds p; omega
    · rw [setHold_hold, if_pos rfl]; exact Nat.succ_ne_zero _

theorem Kept.describeBody (ok : Kept c toPointer none s) : Kept c toPointer none (describeBody p e s) := by
  refine ok.withToken fun h k valid hp => ?_
  obtain ⟨-, hv, hs, -⟩ := valid
  obtain ⟨state, holds, transit, carries⟩ := ok.usedRecord hv hs
  have written : Kept c toPointer (some (.used k h (s.record h)))
      (s.writeRecord h { s.record h with length := e.arg1, tag := e.arg2 }) := (ok.pickUsed hv hs).write _
  exact Kept.answer (Kept.putBackWritten (r := { s.record h with length := e.arg1, tag := e.arg2 }) written
    (writeRecord_record_self ok.ready h _) ⟨state, holds, transit, carries⟩ (refs_ne_zero (p := p) hp)) p e _ _

theorem Kept.inspectBody (ok : Kept c toPointer none s) : Kept c toPointer none (inspectBody p e s) := by
  unfold Machine.inspectBody
  split
  · exact ok.answer ..
  · dsimp only
    split
    · next hv => exact ok.answerFault (by simpa using hv) p e
    · exact ok.answer ..

/-! ### Passing (R71 to R82) -/

theorem Kept.sendTo (ok : Kept c toPointer none s) {h : HandleNo} {k : PoolId} (valid : ValidToken s e.arg0 h k)
    (hp : (s.record h).hold p ≠ 0) (room : (s.record h).transit ≠ 7) (x : Port) :
    Kept c toPointer none (sendTo p x e s h k) := by
  obtain ⟨hh, hv, hs, hg⟩ := valid
  have used := ok.usedRecord hv hs
  obtain ⟨left, hl⟩ : ∃ left, left = if e.flagA then (s.record h).hold p else (s.record h).hold p - 1 := ⟨_, rfl⟩
  obtain ⟨r, hr⟩ : ∃ r, r = { (s.record h).setHold p left with transit := (s.record h).transit + 1 } := ⟨_, rfl⟩
  have bound : left ≤ 7 := by
    have := used.holds p
    rw [hl]
    split <;> omega
  have transit : r.transit = (s.record h).transit + 1 := by rw [hr]
  have gen : r.gen = (s.record h).gen := by rw [hr]; rfl
  have lowered := (ok.pickUsed hv hs).lowerHold (p := p) (n := left) (r' := r) hp
    fun q => by rw [hr]; exact setHold_hold _ p q left
  have member : ∀ q, (((if left = 0 then s.lowerCharge k h p else s).writeRecord h r).member q) = s.member q :=
    fun q => by split <;> rfl
  have added := lowered.addDelivery x (d := ⟨e.arg0, p, .sent⟩) (if e.flagB then .urgent else .normal) hh
  have before := used.setHold p bound
  have after := before.congr (t := (if left = 0 then s.lowerCharge k h p else s).writeRecord h r)
    fun q => by rw [member]
  rw [sendTo_eq p x e h k hl, ← hr]
  refine Kept.answer (added.putBackWritten (written_record lowered.ready) ⟨?_, fun q => ?_, ?_, ?_⟩ ?_) p e _ _
  · rw [hr]; exact hs
  · rw [hr]; exact before.holds q
  · rw [transit]
    have := used.transit
    omega
  · rw [transit, gen]; exact after.carries.added x (d := ⟨e.arg0, p, .sent⟩) hh hg (if e.flagB then .urgent else .normal)
  · unfold HandleRec.refs
    omega

theorem Kept.sendBody (ok : Kept c toPointer none s) : Kept c toPointer none (sendBody p e s) := by
  refine ok.withToken fun h k valid hp => ?_
  unfold sendChecks
  split
  · exact ok.answer ..
  · repeat' split
    case isFalse.isFalse.isFalse.isFalse room => exact ok.sendTo p e valid hp room _
    all_goals exact ok.answer ..

theorem Kept.acceptDelivery (ok : Kept c toPointer none s) {d : Delivery} {cl : DeliveryClass}
    (hc : (s.member p).inbound.chosen = some (d, cl)) (hv : (s.record (tokenHandle d.token)).verifies = true)
    (limit : (s.record (tokenHandle d.token)).hold p ≠ 7) : Kept c toPointer none (acceptDelivery p e s d cl) := by
  obtain ⟨k, hs, -⟩ := ok.used_of_chosen hc hv
  have used := ok.usedRecord hv hs
  obtain ⟨r, hr⟩ : ∃ r, r = { (s.record (tokenHandle d.token)).setHold p ((s.record (tokenHandle d.token)).hold p + 1) with
    transit := (s.record (tokenHandle d.token)).transit - 1 } := ⟨_, rfl⟩
  have hold : ∀ q, r.hold q = if q = p then (s.record (tokenHandle d.token)).hold p + 1
      else (s.record (tokenHandle d.token)).hold q := fun q => by rw [hr]; exact setHold_hold _ p q _
  have raised := (ok.pickUsed hv hs).raiseHold (r' := r) (p := p) hold
  have member : ∀ q, (((if (s.record (tokenHandle d.token)).hold p = 0 then s.raiseCharge k (tokenHandle d.token) p
      else s).writeRecord (tokenHandle d.token) r).member q) = s.member q := fun q => by split <;> rfl
  have chosen := hc
  rw [← member] at chosen
  have popped := raised.popDelivery chosen rfl
  have before : UsedRecord s k (tokenHandle d.token)
      ((s.record (tokenHandle d.token)).setHold p ((s.record (tokenHandle d.token)).hold p + 1)) :=
    used.setHold p (by have := used.holds p; omega)
  have after := before.congr (t := (if (s.record (tokenHandle d.token)).hold p = 0 then
      s.raiseCharge k (tokenHandle d.token) p else s).writeRecord (tokenHandle d.token) r) fun q => by rw [member]
  rw [acceptDelivery_eq p e d cl hs, ← hr]
  refine Kept.answer (popped.putBackWritten (written_record raised.ready) ⟨?_, fun q => ?_, ?_, ?_⟩
    (refs_ne_zero (p := p) ?_)) p e _ _
  · rw [hr]; exact hs
  · rw [hr]; exact before.holds q
  · rw [hr]; exact (Nat.sub_le _ 1).trans used.transit
  · rw [hr]; exact after.carries.popped chosen
  · rw [hold, if_pos rfl]; exact Nat.succ_ne_zero _

theorem Kept.takeBody (ok : Kept c toPointer none s) : Kept c toPointer none (takeBody p e s) := by
  unfold Machine.takeBody
  split
  · exact ok.answer ..
  · next d cl hc =>
    dsimp only
    split
    · next hv => exact ok.answerFault (by simpa using hv) p e
    · next hv =>
      split
      · exact ok.answer ..
      · next limit => exact ok.acceptDelivery p e hc (by simpa using hv) limit

theorem Kept.returnDelivery (ok : Kept c toPointer none s) {d : Delivery} {cl : DeliveryClass}
    (hc : (s.member p).inbound.chosen = some (d, cl)) (hv : (s.record (tokenHandle d.token)).verifies = true) :
    Kept c toPointer none (returnDelivery p e s d cl) := by
  obtain ⟨k, hs, pos⟩ := ok.used_of_chosen hc hv
  obtain ⟨state, holds, transit, carries⟩ := ok.usedRecord hv hs
  have gen : tokenGen d.token = (s.record (tokenHandle d.token)).gen :=
    carries.2 p d (by rw [naming_chosen hc, if_pos (by simp [Delivery.names])]; exact List.mem_cons_self)
  have moved := ((ok.pickUsed hv hs).popDelivery hc rfl).addDelivery d.sender (d := ⟨d.token, p, .returned⟩) cl rfl
  have carried := (carries.popped hc).added d.sender (d := ⟨d.token, p, .returned⟩) rfl gen cl
  rw [Nat.sub_add_cancel pos] at carried
  exact Kept.answer (moved.putBackWritten (verified_eq hv) ⟨state, holds, transit, carried⟩
    ((ok.handles _ rfl).of_inUse hv hs).2.2.1) p e _ _

theorem Kept.refuseBody (ok : Kept c toPointer none s) : Kept c toPointer none (refuseBody p e s) := by
  unfold Machine.refuseBody
  split
  · exact ok.answer ..
  · next d cl hc =>
    dsimp only
    split
    · next hv => exact ok.answerFault (by simpa using hv) p e
    · next hv =>
      have hv' : (s.record (tokenHandle d.token)).verifies = true := by simpa using hv
      split
      · exact ok.returnDelivery p e hc hv'
      · exact Kept.answer (ok.drop (fun _ _ => rfl) hc hv') p e _ _

end

end

end Sys2Proof.Machine
end

section
/-! PROOFS. Allocation and the commands on pools, memberships and the lease keep the accounts (R27 to R55, R118 to R138). -/

namespace Sys2Proof.Machine

section
variable {c : Prop} {reach : PoolId → Nat → Nat} {s : State}

/-! ### ALLOCATE (R46 to R51) and CANCEL (R55) -/

theorem updPool_congr {k : PoolId} {f g : PoolRec → PoolRec} (h : f (s.pool k) = g (s.pool k)) :
    s.updPool k f = s.updPool k g := by
  rw [State.updPool, State.updPool, h]

/-- The top of the stack is taken in hand (R47). -/
theorem Kept.pop (ok : Kept c reach none s) {k : PoolId} {h : HandleNo} {rest : List HandleNo}
    (hs : (s.pool k).stack = h :: rest) :
    Kept c reach (some (.free k h)) (s.updPool k fun q => { q with stack := rest })
      ∧ s.deliveriesOf h = 0 := by
  have top : h ∈ (s.pool k).stack := hs ▸ List.mem_cons_self
  have popped := ok.unstack top
  rw [updPool_congr (g := fun q => { q with stack := rest }) (by rw [hs, List.erase_cons_head])] at popped
  exact ⟨popped, ok.noDelivery rfl fun j => ok.treatedInUse_of_stack top⟩

theorem checkFault_popped_stack {k : PoolId} {h : HandleNo} (hk : s.poolOf h = some k) :
    ((s.checkFault h true).pool k).stack = (s.pool k).stack := by
  rw [Machine.checkFault_popped hk, updPool_pool_self]
  rfl

/-- Where the pops of an ALLOCATE end, a handle is in hand or the stack is empty (R47, R48). -/
theorem Kept.popUntilGood {k : PoolId} (p : Port) {hs : List HandleNo} (n : Nat) (ok : Kept c reach none s)
    (stack : (s.pool k).stack = hs) :
    (∀ h, (popUntilGood k p hs n s).handle = some h → Kept c reach (some (.free k h)) (popUntilGood k p hs n s).state
        ∧ (popUntilGood k p hs n s).state.deliveriesOf h = 0)
      ∧ ((popUntilGood k p hs n s).handle = none → Kept c reach none (popUntilGood k p hs n s).state
        ∧ ((popUntilGood k p hs n s).state.pool k).stack = []) := by
  induction hs generalizing n s with
  | nil => exact ⟨nofun, fun _ => ⟨ok, stack⟩⟩
  | cons h rest ih =>
    obtain ⟨popped, none⟩ := ok.pop stack
    rw [Machine.popUntilGood]
    split
    · exact ⟨fun j hj => by cases hj; exact ⟨popped, none⟩, nofun⟩
    · have covers : ((s.updPool k fun q => { q with stack := rest }).pool k).covers h = true := (popped.hand _ rfl).1
      have faulty := popped.checkFault_popped
      refine ih _ (faulty.same rfl (fun _ => rfl) (fun _ => rfl) fun _ => rfl) ?_
      rw [raise_pool, checkFault_popped_stack (popped.poolOf_eq covers), updPool_pool_self]

theorem Kept.allocateHandle {k : PoolId} {h : HandleNo} (ok : Kept c toPointer (some (.free k h)) s)
    (hd : s.deliveriesOf h = 0) (p : Port) (n : Nat) (e : Entry) :
    Kept c toPointer none (allocateHandle p k h n e s) := by
  rw [allocateHandle_eq]
  have charged := ok.recharge (fun _ => rfl) p true (· + 1) fun n => rfl
  have written : Kept c toPointer (some (.heldBy k h p)) (s.allocated p k h) := charged.write _
  refine Kept.answer (written.putBackHeld (g := (s.record h).gen) ?_ hd) p e _ _
  rw [(allocated_meets ok.ready p k h).record, changeAt_self]

theorem Kept.beginWaiting (ok : Kept c reach none s) {k : PoolId} (hk : (s.pool k).state ≠ .unconfigured)
    (stack : (s.pool k).stack = []) (p : Port) (e : Entry) : Kept c reach none (beginWaiting p k e s) :=
  (ok.updPool k (f := fun q => { q with waitList := q.waitList ++ [⟨p, e.tag⟩] })
    ⟨Iff.rfl, fun q => absurd (congrArg PoolRec.state q) hk, rfl, rfl, rfl, rfl, fun _ => .inr stack, rfl, rfl,
      fun rc h => ⟨rc, h, rfl, rfl, rfl⟩⟩).same rfl (fun _ => rfl) (fun _ => rfl) fun _ => rfl

theorem Kept.allocateBody (ok : Kept c toPointer none s) (p : Port) (e : Entry) :
    Kept c toPointer none (allocateBody p e s) := by
  unfold Machine.allocateBody
  split
  · exact ok.answer ..
  · next k _ =>
    dsimp only
    split
    · exact ok.answer ..
    · exact ok.answer ..
    · next active =>
      split
      · exact ok.answer ..
      · obtain ⟨good, bad⟩ := ok.popUntilGood p 0 (rfl : (s.pool k).stack = _)
        split
        · next h hh =>
          obtain ⟨popped, none⟩ := good h hh
          exact popped.allocateHandle none p _ e
        · next hn =>
          obtain ⟨kept, empty⟩ := bad hn
          unfold allocateEmpty
          split
          · split
            · exact kept.answer ..
            · refine kept.beginWaiting ?_ empty p e
              rw [popUntilGood_poolState, active]
              nofun
          · exact kept.answer ..

theorem Kept.cancelBody (ok : Kept c reach none s) (p : Port) (e : Entry) :
    Kept c reach none (cancelBody p e s) := by
  unfold Machine.cancelBody
  split
  · exact ok.answer ..
  · next k w _ =>
    have without := ok.updPool k (f := fun q => { q with waitList := q.waitList.filter fun v => decide (v.port ≠ p) })
      ⟨Iff.rfl, fun q => by rw [q]; rfl, rfl, rfl, rfl, rfl, fun hw => .inl fun e => hw (by simp [e]), rfl, rfl,
        fun rc h => ⟨rc, h, rfl, rfl, rfl⟩⟩
    exact without.same rfl (fun _ => rfl) (fun _ => rfl) fun _ => rfl

/-! ### Quotas and watches (R28, R32 to R34) -/

/-- Quotas, watches, the closer and the state DRAINING are none of the accounts' business in a configured pool. -/
theorem alike_of_configured {q q' : PoolRec} (hq : q.state ≠ .unconfigured) (hq' : q'.state ≠ .unconfigured)
    (first : q'.first = q.first) (count : q'.count = q.count) (stack : q'.stack = q.stack)
    (retired : q'.retired = q.retired) (waiting : q'.waitList ≠ [] → q.waitList ≠ []) (charge : q'.charge = q.charge)
    (needed : q'.recountNeeded = q.recountNeeded) (recount : q'.recount = q.recount) : q.Alike q' :=
  ⟨⟨fun h => absurd h hq', fun h => absurd h hq⟩, fun h => absurd (congrArg PoolRec.state h) hq, first, count, stack,
    retired, fun h => .inl (waiting h), charge, needed, fun rc h => ⟨rc, recount ▸ h, rfl, rfl, rfl⟩⟩

theorem Kept.quotaBody (ok : Kept c reach none s) (p : Port) (e : Entry) :
    Kept c reach none (quotaBody p e s) := by
  unfold Machine.quotaBody
  split
  · repeat' split
    case isFalse.isFalse.isFalse hk =>
      exact (ok.updPool _ (alike_of_configured hk hk rfl rfl rfl rfl id rfl rfl rfl)).answer ..
    all_goals exact ok.answer ..
  all_goals exact ok.answer ..

theorem Kept.watchBody (ok : Kept c reach none s) (p : Port) (e : Entry) :
    Kept c reach none (watchBody p e s) := by
  unfold Machine.watchBody
  split
  · exact ok.answer ..
  · next k _ =>
    split
    · exact ok.answer ..
    · exact ok.answer ..
    · next active =>
      have hk : (s.pool k).state ≠ .unconfigured := by rw [active]; nofun
      split
      · exact ok.answer ..
      · have armed := ok.updPool k
          (f := fun q => { q with watches := q.watches.set p.val (some e.arg1.toNat) p.isLt })
          (alike_of_configured hk hk rfl rfl rfl rfl id rfl rfl rfl)
        unfold armWatch
        dsimp only
        split
        · refine Kept.answer (armed.fireWatch k p ?_) p e _ _
          rw [updPool_pool_self]
          exact hk
        · exact armed.answer ..

theorem unconfigured_unwatched (p : Port) :
    { PoolRec.unconfigured with watches := PoolRec.unconfigured.watches.set p.val none p.isLt } = .unconfigured := by
  have watches : (Vector.replicate 4 (none : Option Nat)).set p.val none p.isLt = Vector.replicate 4 none := by
    ext i hi
    simp
  simp [PoolRec.unconfigured, watches]

theorem Kept.unwatchBody (ok : Kept c reach none s) (p : Port) (e : Entry) :
    Kept c reach none (unwatchBody p e s) := by
  unfold Machine.unwatchBody
  split
  · exact ok.answer ..
  · next k _ =>
    exact (ok.updPool k ⟨Iff.rfl, fun h => by rw [h]; exact unconfigured_unwatched p, rfl, rfl, rfl, rfl, .inl, rfl, rfl,
      fun rc h => ⟨rc, h, rfl, rfl, rfl⟩⟩).answer ..

theorem Kept.poolstatBody (ok : Kept c reach none s) (p : Port) (e : Entry) :
    Kept c reach none (poolstatBody p e s) := by
  unfold Machine.poolstatBody
  split
  · exact ok.answer ..
  · dsimp only
    split <;> exact ok.answer ..

/-! ### CLOSE (R36, R37) -/

theorem Kept.closingPool (ok : Kept c reach none s) {k : PoolId} (hk : (s.pool k).state ≠ .unconfigured) :
    Kept c reach none (s.closingPool k) := by
  have pools : ∀ j, (s.turnAwayAll (s.pool k).waitList).pool j = s.pool j := fun j => by
    rw [State.pool, turnAwayAll_pools, ← State.pool]
  have told : Kept c reach none (s.turnAwayAll (s.pool k).waitList) :=
    ok.same (turnAwayAll_device ..) pools (fun h => by simp [State.record]) fun q => by rw [turnAwayAll_member]
  refine told.updPool k ?_
  rw [pools]
  exact alike_of_configured hk nofun rfl rfl rfl rfl (fun h => absurd rfl h) rfl rfl rfl

theorem Kept.closeBody (ok : Kept c reach none s) (p : Port) (e : Entry) :
    Kept c reach none (closeBody p e s) := by
  unfold Machine.closeBody
  split
  · exact ok.answer ..
  · next k _ =>
    split
    · exact ok.answer ..
    · split
      · exact ok.answer ..
      · exact ok.answer ..
      · next active =>
        have closing := ok.closingPool (k := k) (by rw [active]; nofun)
        have self := closingPool_pool_self s k
        have configured : ((s.closingPool k).pool k).state ≠ .unconfigured := by rw [self]; nofun
        by_cases full : (s.pool k).depth + (s.pool k).retired = (s.pool k).count
        · rw [closeActive_drained full]
          exact Kept.answer (closing.teardown configured (by rw [self]; exact full)) p e _ _
        · rw [closeActive_draining full]
          exact Kept.answer (closing.updPool k
            (alike_of_configured configured configured rfl rfl rfl rfl id rfl rfl rfl)) p e _ _

/-! ### RETIRE and RESTORE (R42 to R45) -/

theorem Kept.retireFree (ok : Kept c reach none s) {h : HandleNo} {k : PoolId} (hv : (s.record h).verifies = true)
    (hs : (s.record h).state = .free k) (p : Port) (e : Entry) : Kept c reach none (retireFree p e s h k) := by
  obtain ⟨-, free, -⟩ := (ok.handles h rfl).record hv
  have top : h ∈ (s.pool k).stack := (free k).1 hs
  have none := ok.noDelivery rfl fun j => ok.treatedInUse_of_stack (j := j) top
  have counted := (ok.unstack top).countRetired true (· + 1) fun _ => rfl
  rw [show (Hand.free k h).pool = k from rfl, updPool_updPool] at counted
  have written := counted.write (.blank (.retired k .admin) ((s.record h).gen + 1))
  exact Kept.answer (Kept.putBackRetired written (written_record written.ready) (fun _ => rfl) none) p e _ _

theorem Kept.lowerIfHeld {a : Hand} (ok : Kept c toPointer (some a) s) {r : HandleRec} (q : Port)
    (charged : a.charged q = decide (r.hold q ≠ 0)) :
    Kept c toPointer (some (a.recharged q false)) (s.lowerIfHeld a.pool a.handle r q) := by
  unfold State.lowerIfHeld
  split
  · next hq =>
    have same : a.recharged q false = a := by
      rw [Hand.recharged, Function.update_eq_self_iff.2 (by rw [charged, hq]; rfl)]
    rw [same]
    exact ok
  · next hq => exact ok.recharge (fun _ => rfl) q false (· - 1) fun n => by simp [charged, hq]

theorem Kept.lowerAll {k : PoolId} {h : HandleNo} {r : HandleRec} (ok : Kept c toPointer (some (.used k h r)) s) :
    Kept c toPointer (some (.free k h))
      ((((s.lowerIfHeld k h r 0).lowerIfHeld k h r 1).lowerIfHeld k h r 2).lowerIfHeld k h r 3) := by
  have lowered := (((ok.lowerIfHeld 0 rfl).lowerIfHeld (r := r) 1 rfl).lowerIfHeld (r := r) 2 rfl).lowerIfHeld
    (r := r) 3 rfl
  have hand : ((((Hand.used k h r).recharged 0 false).recharged 1 false).recharged 2 false).recharged 3 false
      = .free k h := by
    refine congrArg (Hand.mk k h false) (funext fun q => ?_)
    fin_cases q <;> rfl
  rw [hand] at lowered
  exact lowered

/-- A handle in hand that no count counts is withdrawn: retired, with its deliveries gone. -/
theorem Kept.withdraw {k : PoolId} {h : HandleNo} (ok : Kept c reach (some (.free k h)) s) (g : BitVec 4) :
    Kept c reach none (((s.writeRecord h (.blank (.retired k .admin) g)).removeDeliveries h).updPool k
      fun q => { q with retired := q.retired + 1 }) := by
  have written : Kept c reach (some (.free k h))
    ((s.writeRecord h (.blank (.retired k .admin) g)).removeDeliveries h) := (ok.write _).removeDeliveries
  exact Kept.putBackRetired (written.countRetired true (· + 1) fun _ => rfl)
    (written_record (s := s) (r := .blank (.retired k .admin) g) ok.ready) (fun _ => rfl)
    (removeDeliveries_deliveriesOf _ h)

theorem Kept.retireInUse (ok : Kept c toPointer none s) {h : HandleNo} {k : PoolId}
    (hv : (s.record h).verifies = true) (hs : (s.record h).state = .inUse k) (p : Port) (e : Entry) :
    Kept c toPointer none (retireInUse p e s h k) :=
  Kept.answer (((ok.pickUsed hv hs).lowerAll.withdraw ((s.record h).gen + 1)).drainTest k) p e _ _

theorem Kept.retireBody (ok : Kept c toPointer none s) (p : Port) (e : Entry) :
    Kept c toPointer none (retireBody p e s) := by
  refine ok.withHandle fun h hv => ?_
  split
  · exact ok.answer ..
  · exact ok.answer ..
  · next k hs => exact ok.retireFree hv hs p e
  · next k hs => exact ok.retireInUse hv hs p e

theorem Kept.restoreHandle (ok : Kept c toPointer none s) {h : HandleNo} {k : PoolId} {reason : RetireReason}
    (hv : (s.record h).verifies = true) (hs : (s.record h).state = .retired k reason) (p : Port) (e : Entry) :
    Kept c toPointer none (restoreHandle p e s h k) := by
  obtain ⟨pool, free, -⟩ := (ok.handles h rfl).record hv
  rw [hs] at pool free
  have none := ok.noDelivery (h := h) rfl fun j => by simp [State.treatedInUse, hs, HandleState.isRetired]
  have picked := ok.pick (poolOf_covers pool.symm) (fun hm => by cases (free k).2 hm) (.inl hv)
  have hand : s.handOf k h = ⟨k, h, true, fun _ => false⟩ := by
    refine congrArg₂ (Hand.mk k h) (by rw [hs]; rfl) (funext fun p => ?_)
    simp [State.heldBy, hs, HandleState.isInUse]
  rw [hand] at picked
  have counted := picked.countRetired false (· - 1) fun _ => rfl
  exact Kept.answer (Kept.dispose counted (fun _ => rfl) (by rw [updPool_record, hs]; rfl) none) p e _ _

theorem Kept.restoreBody (ok : Kept c toPointer none s) (p : Port) (e : Entry) :
    Kept c toPointer none (restoreBody p e s) := by
  refine ok.withHandle fun h hv => ?_
  split
  · next k reason hs => exact ok.restoreHandle hv hs p e
  all_goals exact ok.answer ..

/-! ### Memberships and the lease (R118 to R138) -/

theorem Kept.joinBody (ok : Kept c reach none s) (p : Port) (e : Entry) : Kept c reach none (joinBody p e s) := by
  have joined : Kept c reach none (s.updMember p fun m => { m with membership := .online, evicted := false }) := by
    refine ok.same rfl (fun _ => rfl) (fun _ => rfl) fun q => ?_
    rw [updMember_member]
    split
    · next hq => rw [hq]
    · rfl
  unfold Machine.joinBody
  split
  · exact joined.answer ..
  · exact ok.answer ..

theorem Kept.leaveBody (ok : Kept c toPointer none s) (p : Port) (e : Entry) :
    Kept c toPointer none (leaveBody p e s) := by
  have emptied : Kept c toPointer none (s.updWindow p fun w => { w with queue := [], results := [] }) :=
    ok.same rfl (fun _ => rfl) (fun _ => rfl) fun _ => rfl
  exact Kept.answer (emptied.prologue (fun _ _ => rfl) p) p e _ _

theorem Kept.evictTarget (ok : Kept c toPointer none s) (p x : Port) (e : Entry) :
    Kept c toPointer none (evictTarget p x e s) := by
  have marked : Kept c toPointer none ((s.updWindow x Window.cleared).updMember x fun m => { m with evicted := true }) := by
    refine ok.same rfl (fun _ => rfl) (fun _ => rfl) fun q => ?_
    rw [updMember_member]
    split
    · next hq => rw [hq]; rfl
    · rfl
  exact Kept.answer (marked.prologue (fun _ _ => rfl) x) p e _ _

theorem Kept.evictBody (ok : Kept c toPointer none s) (p : Port) (e : Entry) :
    Kept c toPointer none (evictBody p e s) := by
  unfold Machine.evictBody
  split
  · exact ok.answer ..
  · repeat' split
    case isFalse.isFalse.isFalse => exact ok.evictTarget p _ e
    all_goals exact ok.answer ..

theorem Kept.lease (ok : Kept c reach none s) (l : Lease) : Kept c reach none { s with lease := l } :=
  ok.same rfl (fun _ => rfl) (fun _ => rfl) fun _ => rfl

theorem Kept.leaseBody (ok : Kept c reach none s) (p : Port) (e : Entry) : Kept c reach none (leaseBody p e s) := by
  unfold Machine.leaseBody
  dsimp only
  split
  · exact ok.answer ..
  · split
    · exact (ok.lease _).answer ..
    · split
      · exact (ok.lease _).answer ..
      · exact ok.answer ..

theorem Kept.unleaseBody (ok : Kept c reach none s) (p : Port) (e : Entry) : Kept c reach none (unleaseBody p e s) := by
  unfold Machine.unleaseBody
  split
  · exact ok.answer ..
  · split
    · exact (ok.lease _).answer ..
    · exact ok.answer ..

theorem Kept.tickLease (ok : Kept c reach none s) : Kept c reach none s.tickLease := by
  unfold State.tickLease
  split
  · exact ok
  · split
    · exact (ok.lease .vacant).same rfl (fun _ => rfl) (fun _ => rfl) fun _ => rfl
    · exact ok.lease _

end

end Sys2Proof.Machine
end

section
/-! PROOFS. The recount keeps the accounts (R85 to R91): within a step each handle counted moves the limit below which
the shadow charges count on by one. -/

namespace Sys2Proof.Machine

section
variable {c : Prop} {reach reach' : PoolId → Nat → Nat} {s : State} {k : PoolId}

/-! ### New counts in one pool -/

/-- A pool record with other charges, another flag and another recount record. -/
def PoolRec.counting (q : PoolRec) (charge : Vector Nat 4) (needed : Bool) (recount : Option RecountRec) : PoolRec :=
  { q with charge := charge, recountNeeded := needed, recount := recount }

/-- Such charges count what the accounts say. -/
structure CountsHeld (reach : Nat → Nat) (s : State) (k : PoolId) (charge : Vector Nat 4) (needed : Bool)
    (recount : Option RecountRec) : Prop where
  live : needed = false → NoneDamagedBut none s k 4096 → ∀ p : Port, charge[p] = heldBut none s k p 4096
  first_le : ∀ rc, recount = some rc → (s.pool k).first ≤ rc.pointer
  lt_last : ∀ rc, recount = some rc → rc.pointer < (s.pool k).first + (s.pool k).count
  marked : ∀ rc, recount = some rc → rc.disturbed = true → needed = true
  shadow : ∀ rc, recount = some rc → rc.disturbed = false → NoneDamagedBut none s k (reach rc.pointer) →
    ∀ p : Port, rc.shadow[p] = heldBut none s k p (reach rc.pointer)

theorem chargesCount_iff {reach : Nat → Nat} : ChargesCount reach none s k
    ↔ CountsHeld reach s k (s.pool k).charge (s.pool k).recountNeeded (s.pool k).recount := by
  constructor
  · rintro ⟨live, recount⟩
    exact ⟨live, fun rc h => (recount rc h).first_le, fun rc h => (recount rc h).lt_last,
      fun rc h => (recount rc h).needed, fun rc h => (recount rc h).shadow⟩
  · rintro ⟨live, first_le, lt_last, marked, shadow⟩
    exact ⟨live, fun rc h => ⟨first_le rc h, lt_last rc h, marked rc h, shadow rc h⟩⟩

theorem Kept.updCounts (ok : Kept c reach none s) (hk : (s.pool k).state ≠ .unconfigured) {f : PoolRec → PoolRec}
    {charge : Vector Nat 4} {needed : Bool} {recount : Option RecountRec}
    (hf : f (s.pool k) = (s.pool k).counting charge needed recount) (others : ∀ j, j ≠ k → reach' j = reach j)
    (counts : c → CountsHeld (reach' k) s k charge needed recount) : Kept c reach' none (s.updPool k f) := by
  have pool : (s.updPool k f).pool k = (s.pool k).counting charge needed recount := by rw [updPool_pool_self, hf]
  have other : ∀ {j}, j ≠ k → (s.updPool k f).pool j = s.pool j := fun hj => updPool_pool_ne s f hj
  have covers : ∀ j h, ((s.updPool k f).pool j).covers h = (s.pool j).covers h := by
    intro j h
    by_cases e : j = k
    · subst e; rw [pool]; rfl
    · rw [other e]
  have stack : ∀ j, ((s.updPool k f).pool j).stack = (s.pool j).stack := by
    intro j
    by_cases e : j = k
    · subst e; rw [pool]; rfl
    · rw [other e]
  have range : ((s.updPool k f).pool k).range = (s.pool k).range := by rw [pool]; rfl
  have same : ∀ j, SameRecords none none s (s.updPool k f) j := fun j => ⟨fun _ _ => rfl, fun _ _ _ => rfl⟩
  have alike : ∀ {j}, j ≠ k → (s.pool j).Alike ((s.updPool k f).pool j) := fun hj => by rw [other hj]; exact .refl _
  have configured : ∀ {j}, j ≠ k → ((s.updPool k f).pool j).state ≠ .unconfigured → (s.pool j).state ≠ .unconfigured :=
    fun hj h => by rwa [other hj] at h
  have held := heldBut_eq hk (same k) range
  have undamaged : ∀ {n}, NoneDamagedBut none (s.updPool k f) k n → NoneDamagedBut none s k n :=
    noneDamagedBut_of (same k) (covers k) (stack k)
  refine ⟨ok.ready, fun j hj => ?_, fun j hj => ?_, fun i j h hi hj => ?_, fun h _ => ?_, fun cc j hj => ?_, nofun⟩
  · by_cases e : j = k
    · subst e
      rw [pool] at hj
      exact absurd hj hk
    · rw [other e] at hj ⊢
      exact ok.unconfigured j hj
  · by_cases e : j = k
    · subst e
      obtain ⟨count_pos, last, nodup, covered, waiting, retired⟩ := ok.pools j hk
      rw [← retiredBut_eq hk (same j) (stack j) range] at retired
      refine ⟨?_, ?_, ?_, ?_, ?_, ?_⟩
      · rw [pool]; exact count_pos
      · rw [pool]; exact last
      · rw [stack]; exact nodup
      · rw [stack]
        exact fun h hm => (covers j h).trans (covered h hm)
      · rw [stack, pool]; exact waiting
      · rw [← retired, pool]; rfl
    · exact (ok.pools j (configured e hj)).alike (configured e hj) (same j) (.refl s j none) (alike e)
  · rw [covers] at hi hj
    exact ok.apart i j h hi hj
  · exact (ok.handles h rfl).congr rfl (fun j => covers j h) (fun j => by rw [stack]) fun _ => rfl
  · by_cases e : j = k
    · subst e
      obtain ⟨live, first_le, lt_last, marked, shadow⟩ := counts cc
      refine chargesCount_iff.2 ⟨?_, ?_, ?_, ?_, ?_⟩ <;> rw [pool]
      · intro hn nd p
        rw [held]
        exact live hn (undamaged nd) p
      · exact first_le
      · exact lt_last
      · exact marked
      · intro rc hr hd nd p
        rw [held]
        exact shadow rc hr hd (undamaged nd) p
    · rw [others j e]
      exact (ok.charges cc j (configured e hj)).alike (configured e hj) (same j) (.refl s j none) (alike e)

/-- How far the shadow charges have counted matters only where a recount runs. -/
theorem Kept.reaches (ok : Kept c reach none s)
    (h : c → ∀ j rc, (s.pool j).recount = some rc → reach' j rc.pointer = reach j rc.pointer) : Kept c reach' none s :=
  ⟨ok.ready, ok.unconfigured, ok.pools, ok.apart, ok.handles, fun cc j hj => by
    obtain ⟨live, recount⟩ := ok.charges cc j hj
    refine ⟨live, fun rc hr => ?_⟩
    obtain ⟨first_le, lt_last, needed, shadow⟩ := recount rc hr
    exact ⟨first_le, lt_last, needed, by rw [h cc j rc hr]; exact shadow⟩, ok.hand⟩

/-! ### One handle more -/

theorem heldBut_succ (s : State) (k : PoolId) (p : Port) (n : Nat) : heldBut none s k p (n + 1)
    = heldBut none s k p n + if n ∈ (s.pool k).range ∧ s.heldBy n p = true then 1 else 0 := by
  unfold heldBut
  rw [countP_split (range_nodup _) n]
  congr 1
  · refine List.countP_congr fun h _ => ?_
    have below : (n ≠ h ∧ h < n + 1) ↔ h < n := by omega
    by_cases e : h < n
    · have := below.2 e; simp [e, this.1, this.2]
    · have : n = h ∨ ¬ h < n + 1 := by omega
      rcases this with rfl | this
      · simp
      · simp [e, this]
  · simp

theorem noneDamagedBut_mono {x : Option Hand} {m n : Nat} (hmn : m ≤ n) (nd : NoneDamagedBut x s k n) :
    NoneDamagedBut x s k m := fun h hx hl hu => nd h hx (hl.trans_le hmn) hu

theorem countedIn_get (v : Vector Nat 4) (r : HandleRec) (p : Port) :
    (countedIn v r)[p] = v[p] + if r.state.isInUse = true ∧ r.hold p ≠ 0 then 1 else 0 := by
  simp only [countedIn, Fin.getElem_fin, Vector.getElem_ofFn, Fin.eta]
  split <;> rfl

/-- A recount step of pool k that has counted the handles below n. -/
def countedTo (k : PoolId) (n : Nat) : PoolId → Nat → Nat := fun j m => if j = k then n else m

theorem countedTo_self (k : PoolId) (n m : Nat) : countedTo k n k m = n := if_pos rfl

theorem countedTo_ne {j k : PoolId} (h : j ≠ k) (n : Nat) : countedTo k n j = toPointer j :=
  funext fun m => (if_neg h : countedTo k n j m = m)

/-- A record that verifies is counted (R87). -/
theorem Kept.countGood {n : Nat} (ok : Kept c (countedTo k n) none s) {rc : RecountRec}
    (hr : (s.pool k).recount = some rc) (hn : c → n ∈ (s.pool k).range) (hv : (s.record n).verifies = true) :
    Kept c (countedTo k (n + 1)) none (s.updPool k fun q =>
      { q with recount := q.recount.map fun rc => { rc with shadow := countHolders (s.record n) rc.shadow } }) := by
  have hk : (s.pool k).state ≠ .unconfigured := fun h => by rw [ok.unconfigured k h] at hr; cases hr
  refine ok.updCounts hk (charge := (s.pool k).charge) (needed := (s.pool k).recountNeeded)
    (recount := some { rc with shadow := countHolders (s.record n) rc.shadow }) (by rw [hr]; rfl)
    (fun j hj => (countedTo_ne hj _).trans (countedTo_ne hj _).symm) fun cc => ?_
  obtain ⟨live, first_le, lt_last, marked, shadow⟩ := chargesCount_iff.1 (ok.charges cc k hk)
  refine ⟨live, ?_, ?_, ?_, ?_⟩ <;> rintro _ ⟨⟩
  · exact first_le rc hr
  · exact lt_last rc hr
  · exact marked rc hr
  · intro hd nd p
    rw [countedTo_self] at nd ⊢
    have before := shadow rc hr hd (by rw [countedTo_self]; exact noneDamagedBut_mono (Nat.le_succ n) nd) p
    rw [countedTo_self] at before
    rw [heldBut_succ, countHolders_eq, countedIn_get, before]
    simp [hn cc, State.heldBy, hv]

/-- A handle that no port holds needs no counting. -/
theorem Kept.countNone {n : Nat} (ok : Kept c (countedTo k n) none s) (hn : ∀ p, s.heldBy n p = false) :
    Kept c (countedTo k (n + 1)) none s := by
  refine ⟨ok.ready, ok.unconfigured, ok.pools, ok.apart, ok.handles, fun cc j hj => ?_, ok.hand⟩
  by_cases e : j = k
  · subst e
    obtain ⟨live, first_le, lt_last, marked, shadow⟩ := chargesCount_iff.1 (ok.charges cc j hj)
    refine chargesCount_iff.2 ⟨live, first_le, lt_last, marked, fun rc hr hd nd p => ?_⟩
    rw [countedTo_self] at nd ⊢
    have before := shadow rc hr hd (by rw [countedTo_self]; exact noneDamagedBut_mono (Nat.le_succ n) nd) p
    rw [countedTo_self] at before
    rw [heldBut_succ, before]
    simp [hn]
  · have charges := ok.charges cc j hj
    rw [countedTo_ne e] at charges ⊢
    exact charges

/-! ### The slice -/

/-- What the check-fault path leaves at its handle: a record that no port holds. -/
theorem FaultPath.record {t : State} {h : HandleNo} {popped : Bool} (f : FaultPath s t h popped) :
    ∃ st g, t.record h = .blank st g ∧ st.isInUse = false := by
  obtain ⟨unassigned, pooled⟩ := f
  rcases hp : s.poolOf h with _ | k
  · exact ⟨.unassigned, _, by rw [(unassigned hp).record, changeAt_self], rfl⟩
  · obtain ⟨u, b, drains, stands⟩ := pooled k hp
    have retired : u.record h = .blank (.retired k .check) ((s.record h).gen + 1) := by rw [b.record, changeAt_self]
    by_cases hu : popped = false ∧ h ∉ (s.pool k).stack ∧ (s.record h).state.isRetired = false
    · obtain ⟨torn, kept⟩ := drains hu
      by_cases hd : (u.pool k).state = .draining ∧ (u.pool k).depth + (u.pool k).retired = (u.pool k).count
      · obtain ⟨inside, outside, -⟩ := torn hd
        by_cases hs : (u.pool k).spans h
        · exact ⟨_, _, inside h hs, rfl⟩
        · exact ⟨_, _, (outside h hs).trans retired, rfl⟩
      · rw [kept hd]
        exact ⟨_, _, retired, rfl⟩
    · rw [stands hu]
      exact ⟨_, _, retired, rfl⟩

/-- A pool keeps its range through the check-fault path, or is torn down by it. -/
theorem FaultPath.range {t : State} {h : HandleNo} {popped : Bool} (f : FaultPath s t h popped) (j : PoolId) :
    t.pool j = .unconfigured ∨ (t.pool j).first = (s.pool j).first ∧ (t.pool j).count = (s.pool j).count := by
  obtain ⟨unassigned, pooled⟩ := f
  rcases hp : s.poolOf h with _ | k
  · rw [(unassigned hp).pool]
    exact .inr ⟨rfl, rfl⟩
  · obtain ⟨u, b, drains, stands⟩ := pooled k hp
    have first : (u.pool j).first = (s.pool j).first ∧ (u.pool j).count = (s.pool j).count := by
      rw [b.pool]
      by_cases e : j = k
      · subst e
        rw [changeAt_self]
        unfold PoolRec.afterFault
        repeat' split
        all_goals exact ⟨rfl, rfl⟩
      · rw [changeAt_ne _ e]
        exact ⟨rfl, rfl⟩
    by_cases hu : popped = false ∧ h ∉ (s.pool k).stack ∧ (s.record h).state.isRetired = false
    · obtain ⟨torn, kept⟩ := drains hu
      by_cases hd : (u.pool k).state = .draining ∧ (u.pool k).depth + (u.pool k).retired = (u.pool k).count
      · obtain ⟨-, -, down⟩ := torn hd
        by_cases e : j = k
        · subst e
          exact .inl (by rw [down.pool, changeAt_self])
        · rw [down.pool, changeAt_ne _ e]
          exact .inr first
      · rw [kept hd]
        exact .inr first
    · rw [stands hu]
      exact .inr first

theorem sweepFault_record_self (hd : s.device = .ready) (h : HandleNo) :
    ∃ st g, (s.sweepFault h).record h = .blank st g ∧ st.isInUse = false := by
  obtain ⟨st, g, record, notUsed⟩ := (checkFault_meets hd h false).record
  exact ⟨st, g, by rw [← record]; simp [State.sweepFault, State.record], notUsed⟩

theorem sweepFault_range (hd : s.device = .ready) (h : HandleNo) (j : PoolId) : (s.sweepFault h).pool j = .unconfigured
    ∨ ((s.sweepFault h).pool j).first = (s.pool j).first ∧ ((s.sweepFault h).pool j).count = (s.pool j).count := by
  have pool : (s.sweepFault h).pool j = (s.checkFault h false).pool j := by simp [State.sweepFault, State.pool]
  rw [pool]
  exact (checkFault_meets hd h false).range j

theorem Kept.countAll {len n : Nat} (ok : Kept c (countedTo k n) none s)
    (inside : c → (s.pool k).recount.isSome → (s.pool k).first ≤ n ∧ n + len ≤ (s.pool k).first + (s.pool k).count) :
    Kept c (countedTo k (n + len)) none (s.countAll k (List.range' n len))
      ∧ (((s.countAll k (List.range' n len)).pool k).recount.isSome → (s.pool k).recount.isSome
        ∧ ((s.countAll k (List.range' n len)).pool k).first = (s.pool k).first
          ∧ ((s.countAll k (List.range' n len)).pool k).count = (s.pool k).count) := by
  induction len generalizing n s with
  | zero => exact ⟨ok, fun hs => ⟨hs, rfl, rfl⟩⟩
  | succ len ih =>
    rw [List.range'_succ, State.countAll]
    split
    · next hr =>
      refine ⟨ok.reaches fun _ j rc hj => ?_, fun hs => ⟨hs, rfl, rfl⟩⟩
      have e : j ≠ k := by rintro rfl; rw [hr] at hj; cases hj
      rw [countedTo_ne e, countedTo_ne e]
    · next rc hr =>
      have within : c → n ∈ (s.pool k).range ∧ (s.pool k).first ≤ n + 1
          ∧ n + 1 + len ≤ (s.pool k).first + (s.pool k).count := fun cc => by
        obtain ⟨low, high⟩ := inside cc (by rw [hr]; rfl)
        exact ⟨(mem_range _ n).2 ⟨low, Nat.lt_of_lt_of_le (Nat.lt_add_of_pos_right (Nat.succ_pos len)) high⟩,
          low.trans (Nat.le_succ n), by rwa [Nat.add_right_comm]⟩
      rw [← Nat.add_assoc, Nat.add_right_comm]
      dsimp only
      split
      · next hv =>
        have counted := ok.countGood hr (fun cc => (within cc).1) hv
        have same := updPool_pool_self s k fun q =>
          { q with recount := q.recount.map fun rc => { rc with shadow := countHolders (s.record n) rc.shadow } }
        obtain ⟨kept, range⟩ := ih counted fun cc _ => by
          rw [same]
          exact (within cc).2
        refine ⟨kept, fun hs => ?_⟩
        obtain ⟨-, first, count⟩ := range hs
        rw [same] at first count
        exact ⟨by rw [hr]; rfl, first, count⟩
      · next hv =>
        rw [Bool.not_eq_true] at hv
        obtain ⟨st, g, record, notUsed⟩ := sweepFault_record_self ok.ready n
        have faulted := (ok.sweepFault hv).countNone fun p => by
          simp [State.heldBy, record, HandleRec.blank, notUsed]
        have span := sweepFault_range ok.ready n k
        have before : ((s.sweepFault n).pool k).recount.isSome → ((s.sweepFault n).pool k).first = (s.pool k).first
            ∧ ((s.sweepFault n).pool k).count = (s.pool k).count := fun hs =>
          span.resolve_left fun e => by rw [e] at hs; cases hs
        obtain ⟨kept, range⟩ := ih faulted fun cc hs => by
          obtain ⟨first, count⟩ := before hs
          rw [first, count]
          exact (within cc).2
        refine ⟨kept, fun hs => ?_⟩
        obtain ⟨running, first, count⟩ := range hs
        obtain ⟨first', count'⟩ := before running
        exact ⟨by rw [hr]; rfl, first.trans first', count.trans count'⟩

/-! ### The step, its completion, and RECOUNT (R86, R87, R91) -/

theorem heldBut_all (hk : (s.pool k).first + (s.pool k).count ≤ 4096) (p : Port) :
    heldBut none s k p 4096 = heldBut none s k p ((s.pool k).first + (s.pool k).count) := by
  refine List.countP_congr fun h hm => ?_
  obtain ⟨-, hl⟩ := (mem_range _ h).1 hm
  simp [hl, hl.trans_le hk]

/-- The shadow charges of a recount that has counted the whole range become the charges (R91). -/
theorem Kept.completeRecount (ok : Kept c (countedTo k ((s.pool k).first + (s.pool k).count)) none s) {rc : RecountRec}
    (hr : (s.pool k).recount = some rc) : Kept c toPointer none (s.completeRecount k rc) := by
  have hk : (s.pool k).state ≠ .unconfigured := fun h => by rw [ok.unconfigured k h] at hr; cases hr
  have completed : Kept c toPointer none (s.updPool k (·.completed rc)) := by
    refine ok.updCounts hk (charge := rc.shadow) (needed := rc.disturbed && (s.pool k).recountNeeded) (recount := none)
      rfl (fun j hj => (countedTo_ne hj _).symm) fun cc => ?_
    obtain ⟨-, -, -, marked, shadow⟩ := chargesCount_iff.1 (ok.charges cc k hk)
    refine ⟨fun hn nd p => ?_, nofun, nofun, nofun, nofun⟩
    have last := (ok.pools k hk).last
    have undisturbed : rc.disturbed = false := by
      by_contra hd
      rw [Bool.not_eq_false] at hd
      rw [hd, marked rc hr hd] at hn
      cases hn
    rw [heldBut_all last]
    have counted := shadow rc hr undisturbed (noneDamagedBut_mono (by rw [countedTo_self]; exact last) nd) p
    rwa [countedTo_self] at counted
  rcases hq : rc.requester with _ | p
  · rw [completeRecount_untold hq]
    exact completed
  · rw [completeRecount_told hq]
    exact completed.same rfl (fun _ => rfl) (fun _ => rfl) fun _ => rfl

/-- The pointer of a recount that goes on moves to the end of the slice (R87). -/
theorem Kept.moveRecount {n : Nat} (ok : Kept c (countedTo k n) none s) {rc : RecountRec}
    (hr : (s.pool k).recount = some rc) (low : c → (s.pool k).first ≤ n)
    (high : c → n < (s.pool k).first + (s.pool k).count) :
    Kept c toPointer none (s.updPool k fun q => { q with recount := some { rc with pointer := n } }) := by
  have hk : (s.pool k).state ≠ .unconfigured := fun h => by rw [ok.unconfigured k h] at hr; cases hr
  refine ok.updCounts hk (charge := (s.pool k).charge) (needed := (s.pool k).recountNeeded)
    (recount := some { rc with pointer := n }) rfl (fun j hj => (countedTo_ne hj _).symm) fun cc => ?_
  obtain ⟨live, -, -, marked, shadow⟩ := chargesCount_iff.1 (ok.charges cc k hk)
  refine ⟨live, ?_, ?_, ?_, ?_⟩ <;> rintro _ ⟨⟩
  · exact low cc
  · exact high cc
  · exact marked rc hr
  · have counted := shadow rc hr
    rw [countedTo_self] at counted
    exact counted

theorem Kept.recountSlice (ok : Kept c toPointer none s) {rc : RecountRec} (hr : (s.pool k).recount = some rc) :
    Kept c toPointer none (s.recountSlice k rc.pointer) := by
  have hk : (s.pool k).state ≠ .unconfigured := fun h => by rw [ok.unconfigured k h] at hr; cases hr
  have bounds : c → (s.pool k).first ≤ rc.pointer ∧ rc.pointer < (s.pool k).first + (s.pool k).count := fun cc =>
    ⟨((ok.charges cc k hk).recount rc hr).first_le, ((ok.charges cc k hk).recount rc hr).lt_last⟩
  have slice : (s.pool k).sliceEnd rc.pointer = min (rc.pointer + 16) ((s.pool k).first + (s.pool k).count) := rfl
  obtain ⟨n, hn⟩ : ∃ n, n = (s.pool k).sliceEnd rc.pointer := ⟨_, rfl⟩
  have start : Kept c (countedTo k rc.pointer) none s := ok.reaches fun _ j rc' hj => by
    by_cases e : j = k
    · subst e
      rw [hr] at hj
      cases hj
      exact countedTo_self j _ _
    · rw [countedTo_ne e]
  obtain ⟨counted, range⟩ := start.countAll (len := n - rc.pointer) fun cc _ => by
    have := bounds cc
    omega
  have reached : Kept c (countedTo k n) none (s.counted k rc.pointer) := by
    rw [State.counted, ← hn]
    refine counted.reaches fun cc j rc' _ => ?_
    have := bounds cc
    rw [show rc.pointer + (n - rc.pointer) = n by omega]
  rcases hr' : ((s.counted k rc.pointer).pool k).recount with _ | rc'
  · rw [recountSlice_gone hr']
    refine reached.reaches fun _ j rc' hj => ?_
    have e : j ≠ k := by rintro rfl; rw [hr'] at hj; cases hj
    rw [countedTo_ne e]
  · obtain ⟨-, first, count⟩ := range (by rw [hn]; exact Option.isSome_iff_exists.2 ⟨rc', hr'⟩)
    rw [hn, ← State.counted] at first count
    by_cases hend : (s.pool k).sliceEnd rc.pointer = (s.pool k).first + (s.pool k).count
    · rw [recountSlice_completes hr' hend]
      refine Kept.completeRecount ?_ hr'
      rw [first, count, ← hend, ← hn]
      exact reached
    · rw [recountSlice_moves hr' hend, ← hn]
      rw [← hn] at hend
      refine reached.moveRecount hr' (fun cc => ?_) fun cc => ?_ <;> rw [first]
      · have := bounds cc
        omega
      · rw [count]
        omega

theorem Kept.recountBody (ok : Kept c toPointer none s) (p : Port) (e : Entry) :
    Kept c toPointer none (recountBody p e s) := by
  unfold Machine.recountBody
  split
  · exact ok.answer ..
  · next k _ =>
    dsimp only
    split
    · exact ok.answer ..
    split
    · exact ok.answer ..
    next hk =>
    split
    · exact ok.answer ..
    · have started := ok.updCounts hk (f := fun q => { q with recount := some (.start q.first p) })
        (charge := (s.pool k).charge) (needed := (s.pool k).recountNeeded)
        (recount := some (.start (s.pool k).first p)) rfl (fun _ _ => rfl) fun cc => ?_
      · exact started.answer ..
      obtain ⟨live, -, -, -, -⟩ := chargesCount_iff.1 (ok.charges cc k hk)
      refine ⟨live, ?_, ?_, ?_, ?_⟩ <;> rintro _ ⟨⟩
      · exact Nat.le_refl _
      · exact Nat.lt_add_of_pos_right (ok.pools k hk).count_pos
      · nofun
      · intro _ _ q
        refine (show (Vector.replicate 4 0)[q] = 0 by simp).trans (List.countP_eq_zero.2 fun h hm => ?_).symm
        obtain ⟨hl, -⟩ := (mem_range _ h).1 hm
        simp [toPointer, RecountRec.start, not_lt.2 hl]

end

end Sys2Proof.Machine
end

section
/-! PROOFS. CREATE keeps the accounts (R26, R27), and every row of the machine does: records and pools go on agreeing,
and the charges go on counting the holdings. -/

namespace Sys2Proof.Machine

section
variable {c : Prop} {reach : PoolId → Nat → Nat} {s : State}

/-! ### CREATE (R26, R27) -/

theorem free_of_firstBlocked {hs : List HandleNo} (hn : s.firstBlocked hs = none) {h : HandleNo} (hm : h ∈ hs) :
    (s.record h).verifies = true ∧ (s.record h).state = .unassigned := by
  have := List.find?_eq_none.1 hn h hm
  simpa using this

/-- A record UNASSIGNED is in no pool, and no delivery names it. -/
theorem Kept.unassigned (ok : Kept c reach none s) {h : HandleNo} (hv : (s.record h).verifies = true)
    (hs : (s.record h).state = .unassigned) : (∀ k, (s.pool k).covers h = false) ∧ s.deliveriesOf h = 0 := by
  obtain ⟨pool, -⟩ := (ok.handles h rfl).record hv
  rw [hs] at pool
  have outside := (poolOf_none_iff s h).1 pool.symm
  exact ⟨outside, ok.noDelivery rfl fun k => by simp [State.treatedInUse, outside k]⟩

theorem created_covers (first count : Nat) (h : HandleNo) :
    (PoolRec.created first count).covers h = true ↔ first ≤ h ∧ h < first + count := by
  rw [covers_iff]
  exact and_iff_right nofun

theorem created_stack (first count : Nat) (h : HandleNo) :
    h ∈ (PoolRec.created first count).stack ↔ (PoolRec.created first count).covers h = true := by
  rw [created_covers]
  exact List.mem_range'_1

/-- What a CREATE that passes its checks makes of the accounts: the range, which no pool covered, stands FREE in pool k. -/
structure CreatedIn (s t : State) (k : PoolId) (low count : Nat) : Prop where
  device : t.device = s.device
  unconfigured : s.pool k = .unconfigured
  self : t.pool k = .created low count
  other : ∀ j, j ≠ k → t.pool j = s.pool j
  inside : ∀ h, low ≤ h ∧ h < low + count → t.record h = .blank (.free k) (s.record h).gen
  outside : ∀ h, ¬ (low ≤ h ∧ h < low + count) → t.record h = s.record h
  naming : ∀ q h, (t.member q).inbound.naming h = (s.member q).inbound.naming h
  apart : ∀ j h, (s.pool j).covers h = true → ¬ (low ≤ h ∧ h < low + count)

theorem Kept.createdIn (ok : Kept c reach none s) {k : PoolId} {low count : Nat}
    (hk : (s.pool k).state = .unconfigured)
    (free : ∀ h, low ≤ h ∧ h < low + count → (s.record h).verifies = true ∧ (s.record h).state = .unassigned) :
    CreatedIn s ((s.freeAll k (List.range' low count)).updPool k fun _ => .created low count) k low count := by
  have b := freeAll_updPool_meets ok.ready k low count fun _ => .created low count
  refine ⟨b.device, ok.unconfigured k hk, ?_, fun j hj => ?_, fun h hh => ?_, fun h hh => ?_, fun q h => ?_,
    fun j h hc hh => ?_⟩
  · rw [b.pool, changeAt_self]
  · rw [b.pool, changeAt_ne _ hj]
  · rw [b.record, if_pos hh]
  · rw [b.record, if_neg hh]
  · rw [b.member]
  · obtain ⟨hv, hs⟩ := free h hh
    rw [(ok.unassigned hv hs).1 j] at hc
    cases hc

section
variable {t : State} {k : PoolId} {low count : Nat}

theorem CreatedIn.sameRecords (m : CreatedIn s t k low count) (j : PoolId) : SameRecords none none s t j :=
  ⟨fun _ _ => rfl, fun h hc _ => m.outside h (m.apart j h hc)⟩

theorem CreatedIn.alike (m : CreatedIn s t k low count) {j : PoolId} (hj : j ≠ k) : (s.pool j).Alike (t.pool j) := by
  rw [m.other j hj]
  exact .refl _

theorem CreatedIn.covers_self (m : CreatedIn s t k low count) (h : HandleNo) :
    (t.pool k).covers h = true ↔ low ≤ h ∧ h < low + count := by
  rw [m.self, created_covers]

theorem CreatedIn.covers_outside (m : CreatedIn s t k low count) {h : HandleNo} (hh : ¬ (low ≤ h ∧ h < low + count))
    (j : PoolId) : (t.pool j).covers h = (s.pool j).covers h := by
  by_cases e : j = k
  · subst e
    rw [m.unconfigured]
    exact (Bool.eq_false_iff.2 fun hc => hh ((m.covers_self h).1 hc)).trans rfl
  · rw [m.other j e]

theorem CreatedIn.only (m : CreatedIn s t k low count) {h : HandleNo} (hh : low ≤ h ∧ h < low + count) {j : PoolId}
    (hc : (t.pool j).covers h = true) : j = k := by
  by_contra e
  rw [m.other j e] at hc
  exact m.apart j h hc hh

theorem CreatedIn.fits (m : CreatedIn s t k low count) (pos : 0 < count) (last : low + count ≤ 4096) :
    PoolFits none t k := by
  refine ⟨?_, ?_, ?_, ?_, ?_, ?_⟩
  · rw [m.self]; exact pos
  · rw [m.self]; exact last
  · rw [m.self]; exact List.nodup_range'
  · rw [m.self]; exact fun h hm => (created_stack low count h).1 hm
  · rw [m.self]; exact fun h => absurd rfl h
  · have none : retiredBut none t k = 0 := List.countP_eq_zero.2 fun h hm => by
      have top : h ∈ (t.pool k).stack := by
        rw [m.self] at hm ⊢
        exact hm
      simp [State.withdrawn, top]
    rw [none, m.self]
    rfl

theorem CreatedIn.charges (m : CreatedIn s t k low count) {reach : Nat → Nat} : ChargesCount reach none t k := by
  refine ⟨fun _ _ p => ?_, fun rc hr => ?_⟩
  · have none : heldBut none t k p 4096 = 0 := List.countP_eq_zero.2 fun h hm => by
      have hh : low ≤ h ∧ h < low + count := by
        rw [m.self] at hm
        exact (mem_range (.created low count) h).1 hm
      simp [State.heldBy, m.inside h hh, HandleRec.blank, HandleState.isInUse]
    rw [none, m.self]
    simp [PoolRec.created, PoolRec.unconfigured]
  · rw [m.self] at hr
    cases hr

/-- A handle of the range is FREE, on the new stack, and no delivery names it. -/
theorem CreatedIn.handle_inside (m : CreatedIn s t k low count) (ok : Kept c reach none s) {h : HandleNo}
    (hh : low ≤ h ∧ h < low + count) (none : s.deliveriesOf h = 0) : HandleKept t h := by
  have mine := (m.covers_self h).2 hh
  refine .blank (m.inside h hh) rfl ?_ (fun j => ⟨?_, fun hm => ?_⟩) ?_
  · rcases hp : t.poolOf h with _ | j
    · rw [(poolOf_none_iff t h).1 hp k] at mine
      cases mine
    · rw [m.only hh (poolOf_covers hp)]
      rfl
  · rintro ⟨⟩
    rw [m.self] at mine ⊢
    exact (created_stack low count h).2 mine
  · by_cases e : j = k
    · rw [e]
    · rw [m.other j e] at hm
      exact absurd hh (m.apart j h (ok.covers_of_stack hm))
  · rw [← none]
    exact deliveriesOf_congr fun q => by rw [m.naming]

theorem CreatedIn.handle_outside (m : CreatedIn s t k low count) {h : HandleNo} (ok : HandleKept s h)
    (hh : ¬ (low ≤ h ∧ h < low + count)) : HandleKept t h := by
  refine ok.congr (m.outside h hh) (m.covers_outside hh) (fun j => ?_) fun q => m.naming q h
  by_cases e : j = k
  · subst e
    rw [m.self, m.unconfigured, created_stack, created_covers]
    exact ⟨fun hc => absurd hc hh, nofun⟩
  · rw [m.other j e]

end

theorem Kept.createPool (ok : Kept c reach none s) {k : PoolId} {low count : Nat}
    (hk : (s.pool k).state = .unconfigured) (pos : 0 < count) (last : low + count ≤ 4096)
    (free : ∀ h, low ≤ h ∧ h < low + count → (s.record h).verifies = true ∧ (s.record h).state = .unassigned) :
    Kept c reach none ((s.freeAll k (List.range' low count)).updPool k fun _ => .created low count) := by
  have m := ok.createdIn hk free
  refine ⟨m.device.trans ok.ready, fun j hj => ?_, fun j hj => ?_, fun i j h hi hj => ?_, fun h _ => ?_,
    fun cc j hj => ?_, nofun⟩
  · have e : j ≠ k := by rintro rfl; rw [m.self] at hj; cases hj
    rw [m.other j e] at hj ⊢
    exact ok.unconfigured j hj
  · by_cases e : j = k
    · subst e
      exact m.fits pos last
    · have hj' := hj
      rw [m.other j e] at hj'
      exact (ok.pools j hj').alike hj' (m.sameRecords j) (.refl s j none) (m.alike e)
  · by_cases hh : low ≤ h ∧ h < low + count
    · rw [m.only hh hi, m.only hh hj]
    · rw [m.covers_outside hh] at hi hj
      exact ok.apart i j h hi hj
  · by_cases hh : low ≤ h ∧ h < low + count
    · obtain ⟨hv, hs⟩ := free h hh
      exact m.handle_inside ok hh (ok.unassigned hv hs).2
    · exact m.handle_outside (ok.handles h rfl) hh
  · by_cases e : j = k
    · subst e
      exact m.charges
    · have hj' := hj
      rw [m.other j e] at hj'
      exact (ok.charges cc j hj').alike hj' (m.sameRecords j) (.refl s j none) (m.alike e)

theorem Kept.createBody (ok : Kept c toPointer none s) (p : Port) (e : Entry) :
    Kept c toPointer none (createBody p e s) := by
  unfold Machine.createBody
  dsimp only
  split
  · exact ok.answer ..
  · next k _ =>
    split
    · exact ok.answer ..
    next range =>
    split
    · exact ok.answer ..
    split
    · exact ok.answer ..
    next hk =>
    unfold createOver
    dsimp only
    split
    · split
      · next hv => exact ok.answerFault (by simpa using hv) p e
      · exact ok.answer ..
    · next hn =>
      refine Kept.answer (ok.createPool (not_not.1 hk) (by omega) (by omega) fun h hh => ?_) p e _ _
      exact free_of_firstBlocked hn (List.mem_range'_1.2 hh)

/-! ### The command rows -/

theorem Kept.commandBody (ok : Kept c toPointer none s) (i : Instr) (e : Entry) :
    Kept c toPointer none (commandBody i e s) := by
  cases i
  case join p => exact ok.joinBody p e
  case leave p => exact ok.leaveBody p e
  case allocate p => exact ok.allocateBody p e
  case release p => exact ok.releaseBody p e
  case retain p => exact ok.retainBody p e
  case send p => exact ok.sendBody p e
  case take p => exact ok.takeBody p e
  case refuse p => exact ok.refuseBody p e
  case describe p => exact ok.describeBody p e
  case inspect p => exact ok.inspectBody p e
  case watch p => exact ok.watchBody p e
  case unwatch p => exact ok.unwatchBody p e
  case cancel p => exact ok.cancelBody p e
  case poolstat p => exact ok.poolstatBody p e
  case survey p => exact ok.answer ..
  case lease p => exact ok.leaseBody p e
  case unlease p => exact ok.unleaseBody p e
  case create p => exact ok.createBody p e
  case quota p => exact ok.quotaBody p e
  case close p => exact ok.closeBody p e
  case recount p => exact ok.recountBody p e
  case retire p => exact ok.retireBody p e
  case restore p => exact ok.restoreBody p e
  case evict p => exact ok.evictBody p e
  case unknownCommand p => exact ok.answer ..
  all_goals exact ok

theorem Kept.taken (ok : Kept c reach none s) (p : Port) : Kept c reach none (s.taken p) :=
  ok.same rfl (fun _ => rfl) (fun _ => rfl) fun _ => rfl

theorem Kept.commandRow (ok : Kept c toPointer none s) {i : Instr} {p : Port} {acc : BitVec 6 → Bool}
    (hc : commandRow i = some (p, acc)) {t : State} (hx : exec i s = .next t) : Kept c toPointer none t := by
  have idle : exec i s = .next s → Kept c toPointer none t := fun h => by
    rw [h] at hx
    cases hx
    exact ok
  rcases ho : s.offered p with _ | e
  · exact idle (exec_commandRow_notOffered hc ho)
  rcases ha : acc e.code with _ | _
  · exact idle (exec_commandRow_otherCode hc ho ha)
  rcases exec_commandRow hc s with ⟨rfl, he⟩ | ⟨-, he⟩
  · rw [he, takeAny_some ho, if_pos ha] at hx
    cases hx
    exact (ok.taken p).joinBody p e
  · rcases offered_membership ho with hm | hm
    · rw [he, takeCommand_offline ho ha hm] at hx
      cases hx
      exact (ok.taken p).answer ..
    · rw [he, takeCommand_online ho ha hm] at hx
      cases hx
      exact (ok.taken p).commandBody i e

end

end Sys2Proof.Machine
end

section
/-! PROOFS. The rows that no command brings about, the initialization, and the statements on the accounts. -/

namespace Sys2Proof.Machine

/-! ### Rows that leave the tables alone -/

/-- The device, the handle table, the pools and the ports stand. -/
structure SameTables (s t : State) : Prop where
  device : t.device = s.device
  era : t.era = s.era
  handles : t.handles = s.handles
  pools : t.pools = s.pools
  members : t.members = s.members

section
variable {c : Prop} {s t : State}

theorem SameTables.refl (s : State) : SameTables s s := ⟨rfl, rfl, rfl, rfl, rfl⟩

theorem SameTables.record (a : SameTables s t) (h : HandleNo) : t.record h = s.record h := by
  simp only [State.record, a.device, a.era, a.handles]

theorem SameTables.pool (a : SameTables s t) (k : PoolId) : t.pool k = s.pool k := by rw [State.pool, a.pools]; rfl

theorem SameTables.member (a : SameTables s t) (q : Port) : t.member q = s.member q := by
  rw [State.member, a.members]; rfl

theorem updWindow_sameTables (s : State) (p : Port) (f : Window → Window) : SameTables s (s.updWindow p f) :=
  ⟨rfl, rfl, rfl, rfl, rfl⟩

theorem writeCmd_sameTables (s : State) (p : Port) (v : Word) : SameTables s (s.writeCmd p v) := by
  unfold State.writeCmd
  dsimp only
  split <;> exact updWindow_sameTables s p _

theorem windowWrite_sameTables (s : State) (p : Port) (off : BitVec 4) (v : Word) :
    SameTables s (s.windowWrite p off v) := by
  unfold State.windowWrite
  split
  · exact updWindow_sameTables s p _
  split
  · exact updWindow_sameTables s p _
  split
  · exact updWindow_sameTables s p _
  split
  · exact updWindow_sameTables s p _
  split
  · exact updWindow_sameTables s p _
  split
  · exact writeCmd_sameTables s p v
  split
  · exact updWindow_sameTables s p _
  · exact .refl s

theorem readArrives_sameTables (s : State) (p : Port) (off : BitVec 4) : SameTables s (s.readArrives p off) := by
  unfold State.readArrives
  split <;> exact ⟨rfl, rfl, rfl, rfl, rfl⟩

theorem tickLease_sameTables (s : State) : SameTables s s.tickLease := by
  unfold State.tickLease
  split
  · exact .refl s
  · split <;> exact ⟨rfl, rfl, rfl, rfl, rfl⟩

/-- The rows of the windows, of RST_N's release and of the timebase. -/
inductive WindowRow : Instr → Prop where
  | commandPost (p : Port) (v : Word) : WindowRow (.commandPost p v)
  | attnWrite (p : Port) (v : Word) : WindowRow (.attnWrite p v)
  | attnenWrite (p : Port) (v : Word) : WindowRow (.attnenWrite p v)
  | respop (p : Port) (v : Word) : WindowRow (.respop p v)
  | watchsetRead (p : Port) : WindowRow (.watchsetRead p)
  | registerWrite (p : Port) (off : BitVec 4) (v : Word) : WindowRow (.registerWrite p off v)
  | portResetWindow (p : Port) : WindowRow (.portResetWindow p)
  | portResetRelease (p : Port) : WindowRow (.portResetRelease p)
  | deviceResetRelease : WindowRow .deviceResetRelease
  | millisecondTick : WindowRow .millisecondTick
  | leaseExpiry : WindowRow .leaseExpiry

/-- The rows in which the device acts of itself on its tables. -/
inductive TableRow : Instr → Prop where
  | portResetMembership (p : Port) : TableRow (.portResetMembership p)
  | reclaimStep (p : Port) : TableRow (.reclaimStep p)
  | sweepCompletion (p : Port) : TableRow (.sweepCompletion p)
  | recountStep (k : PoolId) : TableRow (.recountStep k)
  | recountCompletion (k : PoolId) : TableRow (.recountCompletion k)
  | grant (h : Fin 4096) : TableRow (.grant h)
  | watchFire (k : PoolId) (p : Port) : TableRow (.watchFire k p)
  | drainCompletion (k : PoolId) : TableRow (.drainCompletion k)

/-- The rows of the initialization. -/
inductive StartRow : Instr → Prop where
  | initializationWrite : StartRow .initializationWrite
  | deviceReady : StartRow .deviceReady

/-- Every row but DEVICE_RESET is a command's or one of these. -/
theorem row_cases {i : Instr} (hi : i ≠ .deviceReset) :
    (∃ p acc, commandRow i = some (p, acc)) ∨ WindowRow i ∨ TableRow i ∨ StartRow i := by
  cases i
  case deviceReset => exact absurd rfl hi
  case initializationWrite => exact .inr (.inr (.inr .initializationWrite))
  case deviceReady => exact .inr (.inr (.inr .deviceReady))
  case portResetMembership => exact .inr (.inr (.inl (.portResetMembership _)))
  case reclaimStep => exact .inr (.inr (.inl (.reclaimStep _)))
  case sweepCompletion => exact .inr (.inr (.inl (.sweepCompletion _)))
  case recountStep => exact .inr (.inr (.inl (.recountStep _)))
  case recountCompletion => exact .inr (.inr (.inl (.recountCompletion _)))
  case grant => exact .inr (.inr (.inl (.grant _)))
  case watchFire => exact .inr (.inr (.inl (.watchFire _ _)))
  case drainCompletion => exact .inr (.inr (.inl (.drainCompletion _)))
  case commandPost => exact .inr (.inl (.commandPost _ _))
  case attnWrite => exact .inr (.inl (.attnWrite _ _))
  case attnenWrite => exact .inr (.inl (.attnenWrite _ _))
  case respop => exact .inr (.inl (.respop _ _))
  case watchsetRead => exact .inr (.inl (.watchsetRead _))
  case registerWrite => exact .inr (.inl (.registerWrite _ _ _))
  case portResetWindow => exact .inr (.inl (.portResetWindow _))
  case portResetRelease => exact .inr (.inl (.portResetRelease _))
  case deviceResetRelease => exact .inr (.inl .deviceResetRelease)
  case millisecondTick => exact .inr (.inl .millisecondTick)
  case leaseExpiry => exact .inr (.inl .leaseExpiry)
  all_goals exact .inl ⟨_, _, rfl⟩

theorem exec_sameTables {i : Instr} (row : WindowRow i) (hx : exec i s = .next t) : SameTables s t := by
  cases row with
  | commandPost p v => cases hx; split; exacts [.refl s, writeCmd_sameTables s p v]
  | attnWrite p v => cases hx; split; exacts [.refl s, updWindow_sameTables s p _]
  | attnenWrite p v => cases hx; split; exacts [.refl s, updWindow_sameTables s p _]
  | respop p v => cases hx; split; exacts [.refl s, updWindow_sameTables s p _]
  | watchsetRead p => cases hx; exact readArrives_sameTables s p _
  | registerWrite p off v =>
    cases hx
    rw [State.writeArrives]
    split; exacts [.refl s, windowWrite_sameTables s p off v]
  | portResetWindow p => cases hx; exact updWindow_sameTables s p _
  | portResetRelease p => cases hx; exact updWindow_sameTables s p _
  | deviceResetRelease => cases hx; exact ⟨rfl, rfl, rfl, rfl, rfl⟩
  | millisecondTick =>
    cases hx
    split
    · exact .refl s
    · obtain ⟨device, era, handles, pools, members⟩ := tickLease_sameTables { s with divider := 0 }
      exact ⟨device, era, handles, pools, members⟩
  | leaseExpiry =>
    cases hx
    split
    · exact .refl s
    · obtain ⟨device, era, handles, pools, members⟩ := tickLease_sameTables { s with divider := 0 }
      exact ⟨device, era, handles, pools, members⟩

/-! ### The rows of a READY device -/

theorem Kept.tableRow (ok : Kept c toPointer none s) {i : Instr} (row : TableRow i) (hx : exec i s = .next t) :
    Kept c toPointer none t := by
  cases row with
  | portResetMembership p =>
    cases hx
    split
    · exact ok.prologue (fun _ _ => rfl) p
    · exact ok
  | reclaimStep p =>
    cases hx
    split
    · exact ok.reclaimSlice p _
    all_goals exact ok
  | sweepCompletion p =>
    cases hx
    split
    · split
      · exact ok
      · exact ok.reclaimSlice p _
    all_goals exact ok
  | recountStep k =>
    cases hx
    split
    · next rc _ hr => exact ok.recountSlice hr
    all_goals exact ok
  | recountCompletion k =>
    cases hx
    split
    · next rc _ hr =>
      split
      · exact ok.recountSlice hr
      · exact ok
    all_goals exact ok
  | grant h =>
    cases hx
    split
    · next k _ hs =>
      split
      · next due =>
        obtain ⟨hv, refs, -⟩ := due
        exact absurd refs ((ok.handles h.val rfl).of_inUse hv hs).2.2.1
      · exact ok
    all_goals exact ok
  | watchFire k p => cases hx; exact ok.testWatch k p
  | drainCompletion k => cases hx; exact ok.drainTest k

/-- Once the device is READY every row but DEVICE_RESET keeps the accounts. -/
theorem Kept.exec (ok : Kept c toPointer none s) {i : Instr} (hi : i ≠ .deviceReset) (hx : exec i s = .next t) :
    Kept c toPointer none t := by
  rcases row_cases hi with ⟨p, acc, hc⟩ | row | row | row
  · exact ok.commandRow hc hx
  · have a := exec_sameTables row hx
    exact ok.same a.device a.pool a.record fun q => by rw [a.member]
  · exact ok.tableRow row hx
  · have stays : t = s := by
      cases row <;> simp only [Machine.exec, execInitializationWrite, execDeviceReady, ok.ready] at hx <;> cases hx <;> rfl
    rw [stays]
    exact ok

/-! ### Initialization (R144, R145) -/

/-- The tables while the device is INITIALIZING: nothing is configured, and the records below `next` are written. -/
structure Starting (s : State) (next : Nat) : Prop where
  pools : ∀ k, s.pool k = .unconfigured
  members : ∀ p, s.member p = ⟨.offline, false, ⟨[], []⟩⟩
  written : ∀ h, h < next ∨ 4096 ≤ h → Table.get h s.handles = .initial

theorem structureInv_starting {n : Nat} (hd : s.device = .initializing n) : StructureInv s ↔ Starting s n := by
  rw [StructureInv, hd]
  exact ⟨fun ⟨pools, members, written⟩ => ⟨pools, members, written⟩,
    fun ⟨pools, members, written⟩ => ⟨pools, members, written⟩⟩

theorem Starting.write {n : Nat} (st : Starting s n) {h : HandleNo} (hh : h < n + 1 ∨ 4096 ≤ h) :
    Table.get h (s.initializeRecord n).handles = .initial := by
  by_cases e : h = n
  · rw [e]
    exact Table.get_put_same n .initial s.handles
  · refine (Table.get_put_ne e .initial s.handles).trans (st.written h ?_)
    exact hh.imp_left fun hl => lt_of_le_of_ne (Nat.le_of_lt_succ hl) e

/-- Where the last record is written the device is READY, and its accounts are empty. -/
theorem kept_of_empty (ready : s.device = .ready) (pools : ∀ k, s.pool k = .unconfigured)
    (members : ∀ p, s.member p = ⟨.offline, false, ⟨[], []⟩⟩) (records : ∀ h, s.record h = .initial) :
    Kept c toPointer none s := by
  have covers : ∀ k h, (s.pool k).covers h = false := fun k h => by rw [pools]; rfl
  refine ⟨ready, fun k _ => pools k, fun k hk => absurd (by rw [pools]; rfl) hk, fun j k h hj => ?_, fun h _ => ?_,
    fun _ k hk => absurd (by rw [pools]; rfl) hk, nofun⟩
  · rw [covers] at hj
    cases hj
  · refine .blank (records h) rfl ((poolOf_none_iff s h).2 fun k => covers k h).symm (fun k => ⟨nofun, fun hm => ?_⟩)
      ((deliveriesOf_zero_iff s h).2 fun q => by rw [members]; rfl)
    rw [pools] at hm
    cases hm

theorem Starting.initializeRecord {n : Nat} (st : Starting s n) :
    StructureInv (s.initializeRecord n) ∧ (c → ChargeInv (s.initializeRecord n)) := by
  by_cases hn : n + 1 < 4096
  · have device : (s.initializeRecord n).device = .initializing (n + 1) := if_pos hn
    refine ⟨(structureInv_starting device).2 ⟨st.pools, st.members, fun h hh => st.write hh⟩, fun _ ready => ?_⟩
    rw [device] at ready
    cases ready
  · have device : (s.initializeRecord n).device = .ready := if_neg hn
    refine (kept_iff device).1 (kept_of_empty device st.pools st.members fun h => ?_)
    rw [State.record, device]
    exact st.write ((Nat.lt_or_ge h (n + 1)).imp_right (not_lt.1 hn).trans)

/-- While the device is INITIALIZING no command is offered, and nothing is due in the tables. -/
theorem Starting.exec_idle {n : Nat} (st : Starting s n) (hd : s.device = .initializing n) {i : Instr}
    (row : (∃ p acc, commandRow i = some (p, acc)) ∨ TableRow i) : exec i s = .next s := by
  have notReady : s.device ≠ .ready := by rw [hd]; nofun
  rcases row with ⟨p, acc, hc⟩ | row
  · exact exec_commandRow_notOffered hc (notOffered_of_initializing notReady)
  cases row with
  | portResetMembership p =>
    have offline : s.isOnline p = false := by simp [State.isOnline, st.members]
    simp [exec, execPortResetMembership, offline]
  | watchFire k p =>
    have unarmed : (s.pool k).watches[p] = none := by simp [st.pools, PoolRec.unconfigured]
    simp only [exec, execWatchFire, State.testWatch, unarmed]
  | drainCompletion k =>
    have standing : (s.pool k).drained = false := by rw [st.pools]; rfl
    simp [exec, execDrainCompletion, State.drainTest, standing]
  | grant h => exact exec_grant_notReady notReady h
  | _ => simp only [exec, execReclaimStep, execSweepCompletion, execRecountStep, execRecountCompletion, hd]

theorem Starting.startRow {n : Nat} (hd : s.device = .initializing n) {i : Instr} (row : StartRow i)
    (hx : exec i s = .next t) : t = s ∨ t = s.initializeRecord n := by
  cases row <;> simp only [exec, execInitializationWrite, execDeviceReady, hd] at hx <;> split at hx <;> cases hx
  exacts [.inl rfl, .inr rfl, .inl rfl, .inr rfl]

/-! ### The statements -/

/-- Every event keeps both invariants together, and the first alone. -/
theorem exec_keeps_accounts {i : Instr} (structured : StructureInv s) (charges : c → ChargeInv s)
    (hx : exec i s = .next t) : StructureInv t ∧ (c → ChargeInv t) := by
  by_cases hreset : i = .deviceReset
  · subst hreset
    cases hx
    refine ⟨(structureInv_starting rfl).2 ⟨fun k => ?_, fun p => ?_, fun _ _ => rfl⟩, fun _ => nofun⟩
    · simp [State.pool, State.reset]
    · simp [State.member, State.reset, Member.reset]
  rcases hd : s.device with n | _
  swap
  · have kept := ((kept_iff hd).2 ⟨structured, charges⟩).exec hreset hx
    exact (kept_iff kept.ready).1 kept
  have st := (structureInv_starting hd).1 structured
  rcases row_cases hreset with row | row | row | row
  · rw [st.exec_idle hd (.inl row)] at hx
    cases hx
    exact ⟨structured, charges⟩
  · have a := exec_sameTables row hx
    have device := a.device.trans hd
    refine ⟨(structureInv_starting device).2 ⟨fun k => (a.pool k).trans (st.pools k),
      fun p => (a.member p).trans (st.members p), fun h hh => by rw [a.handles]; exact st.written h hh⟩,
      fun _ ready => ?_⟩
    rw [device] at ready
    cases ready
  · rw [st.exec_idle hd (.inr row)] at hx
    cases hx
    exact ⟨structured, charges⟩
  · rcases Starting.startRow hd row hx with rfl | rfl
    · exact ⟨structured, charges⟩
    · exact st.initializeRecord

theorem step_keeps_accounts (structured : StructureInv s) (charges : c → ChargeInv s) (hx : step s = .next t) :
    StructureInv t ∧ (c → ChargeInv t) := by
  rw [step] at hx
  split at hx
  · cases hx
    exact ⟨structured, charges⟩
  · next i rest _ => exact exec_keeps_accounts (s := { s with pending := rest }) structured charges hx

end

/-- Settles O57: the accounts of the handles and pools, with the charges left out, are kept by every event. -/
theorem recordsAndPoolsAgree : Obligations.RecordsAndPoolsAgree :=
  fun _ _ structured hx => (step_keeps_accounts (c := False) structured nofun hx).1

/-- Settles O58: so are the accounts with the charges. -/
theorem chargesCountTheHoldings : Obligations.ChargesCountTheHoldings :=
  fun _ _ structured charges hx => (step_keeps_accounts (c := True) structured (fun _ => charges) hx).2 trivial

/-! ### The reset state (R144) -/

theorem reset_pool (k : PoolId) : State.reset.pool k = .unconfigured := by simp [State.pool, State.reset]

theorem reset_member (p : Port) : State.reset.member p = ⟨.offline, false, ⟨[], []⟩⟩ := by
  simp [State.member, State.reset, Member.reset]

theorem reset_window (p : Port) : State.reset.window p = .reset := by simp [State.window, State.reset]

theorem reset_capacity : CapacityInv State.reset := by
  have noWaiters : ∀ p, State.reset.waitCount p = 0 := fun p => by
    rw [waitCount_eq_sum]
    exact Finset.sum_eq_zero fun k _ => by rw [reset_pool]; rfl
  refine ⟨fun p => ?_, fun k _ => by rw [reset_pool]; rfl, Nat.zero_le _⟩
  rw [reset_window, reset_member, noWaiters]
  exact ⟨Nat.zero_le 4, Nat.zero_le 8, Nat.zero_le 32, rfl, Nat.zero_le 1⟩

theorem reset_membership : MembershipInv State.reset := by
  refine fun p _ => ⟨by rw [reset_member], nofun, fun k => ?_⟩
  rw [reset_pool]
  exact ⟨nofun, by simp [PoolRec.unconfigured], nofun, nofun⟩

/-- Settles O60: at reset every table is empty, and the device is INITIALIZING. -/
theorem resetStateMeetsTheInvariants : Obligations.ResetStateMeetsTheInvariants :=
  ⟨Table.wf_nil, reset_capacity, reset_membership,
    (structureInv_starting rfl).2 ⟨reset_pool, reset_member, fun _ _ => rfl⟩, nofun, nofun⟩

end Sys2Proof.Machine
end

section
/-! PROOFS. A hold that the sweep has set to 0 stays 0 until the port joins again (R117, R125): no elementary change
gives a hold to a port that is not ONLINE. -/

namespace Sys2Proof.Machine

/-- The record, if it verifies, gives the port no hold. -/
def HoldsNothing (s : State) (p : Port) (h : HandleNo) : Prop :=
  (s.record h).verifies = true → (s.record h).hold p = 0

/-- The port's sweep has passed the handle, or the port is OFFLINE. -/
def PassedBy (m : Membership) (h : HandleNo) : Prop := m = .offline ∨ ∃ n, m = .reclaiming n ∧ h < n

theorem sweptInv_iff (s : State) : SweptInv s ↔
    (s.device = .ready → ∀ p h, PassedBy (s.member p).membership h → HoldsNothing s p h) :=
  forall_congr' fun _ => forall₂_congr fun _ _ => ⟨fun hs hm hv => hs hv hm, fun hs hv hm => hs hm hv⟩

section
variable {s t : State} {p : Port} {h : HandleNo}

theorem PassedBy.notOnline (hm : PassedBy (s.member p).membership h) : ¬ Online s p := by
  intro online
  rcases hm with hm | ⟨n, hm, -⟩ <;> rw [online] at hm <;> cases hm

theorem SweptInv.congr (hs : SweptInv s) (device : t.device = s.device) (record : ∀ h, t.record h = s.record h)
    (membership : ∀ p, (t.member p).membership = .online ∨ (t.member p).membership = (s.member p).membership
      ∨ (t.member p).membership = .reclaiming 0) : SweptInv t := by
  rw [sweptInv_iff] at hs ⊢
  intro ready p h passed
  rw [HoldsNothing, record]
  rcases membership p with hm | hm | hm
  · exact absurd hm passed.notOnline
  · exact hs (device.symm.trans ready) p h (hm ▸ passed)
  · rw [hm] at passed
    obtain hm | ⟨n, hm, hl⟩ := passed
    · cases hm
    · cases hm
      exact absurd hl (Nat.not_lt_zero h)

/-! ### Elementary changes -/

/-- An elementary change gives no hold to a port that is not ONLINE: a grant is to a waiter, and such a port has no
wait-list entry. -/
theorem Change.holdsNothing (c : Change s t) (ready : s.device = .ready) (hp : ¬ Online s p) (idle : IdleAt s p)
    (none : HoldsNothing s p h) : HoldsNothing t p h := by
  cases c with
  | write j r gives =>
    rw [HoldsNothing, writeRecord_record ready]
    split
    · next e =>
      subst e
      intro _
      by_contra held
      rcases gives p held with online | ⟨hv, before⟩
      · exact hp online
      · exact before (none hv)
    · exact none
  | grant k j g w rest hw =>
    rw [HoldsNothing, (grantTo_meets ready k j g w rest).record]
    by_cases e : h = j
    · subst e
      have other : p ≠ w.port := fun e => (idle.pools k).waitList w (hw ▸ List.mem_cons_self) e.symm
      rw [changeAt_self]
      intro _
      rw [setHold_hold, if_neg other, blank_hold]
    · rw [changeAt_ne _ e]
      exact none
  | close k =>
    rw [HoldsNothing, updPool_record, State.record, turnAwayAll_device, turnAwayAll_era, turnAwayAll_handles]
    exact none
  | _ => exact none

theorem Changes.holdsNothing (c : Changes s t) (ready : s.device = .ready) (hp : ¬ Online s p) (idle : IdleAt s p)
    (none : HoldsNothing s p h) : HoldsNothing t p h := by
  have kept := c.keep (P := fun u => u.device = .ready ∧ ¬ Online u p ∧ IdleAt u p ∧ HoldsNothing u p h)
    (fun a b d ⟨ready, hp, idle, none⟩ => ⟨d.staysPut.1.1.trans ready, fun online => hp ((d.staysPut.2 p).symm.trans online),
      d.idleAt hp idle, d.holdsNothing ready hp idle none⟩) ⟨ready, hp, idle, none⟩
  exact kept.2.2.2

theorem Changes.sweptInv {x : Option Port} (c : Changes s t) (serves : ServesOnline x s) (hs : SweptInv s) :
    SweptInv t := by
  rw [sweptInv_iff] at hs ⊢
  intro ready p h passed
  have before : s.device = .ready := c.staysPut.1.1.symm.trans ready
  rw [c.staysPut.2] at passed
  exact c.holdsNothing before passed.notOnline (serves p passed.notOnline).1 (hs before p h passed)

theorem Leaves.sweptInv {x : Port} (l : Leaves x s t) (serves : ServesOnline none s) (hs : SweptInv s) : SweptInv t := by
  obtain ⟨a, before, -, after, -⟩ := l
  refine after.sweptInv (departFrom_servesOnline (x := x) (before.servesOnline serves))
    ((before.sweptInv serves hs).congr rfl (fun _ => rfl) fun p => ?_)
  rw [departFrom_member]
  split
  · exact .inr (.inr rfl)
  · exact .inr (.inl rfl)

/-! ### The sweep (R125) -/

theorem holdsNothing_blank {st : HandleState} {g : BitVec 4} (hr : s.record h = .blank st g) : HoldsNothing s p h := by
  intro _
  rw [hr, blank_hold]

/-- A record that is not IN_USE has no hold. -/
theorem Kept.holdsNothing (ok : Kept False toPointer none s) (hu : (s.record h).state.isInUse = false) :
    HoldsNothing s p h := fun hv => by
  obtain ⟨-, -, -, unused, -⟩ := (ok.handles h rfl).record hv
  exact hold_eq_zero (unused hu).1 p

/-- No pool reaches past handle 4095. -/
theorem Kept.holdsNothing_above (ok : Kept False toPointer none s) (hh : 4096 ≤ h) : HoldsNothing s p h := by
  intro hv
  refine ok.holdsNothing ?_ hv
  by_contra hu
  rw [Bool.not_eq_false] at hu
  obtain ⟨k, hk⟩ : ∃ k, (s.record h).state = .inUse k := by
    cases hs : (s.record h).state <;> rw [hs] at hu <;> simp [HandleState.isInUse] at hu
    exact ⟨_, rfl⟩
  obtain ⟨pool, -⟩ := (ok.handles h rfl).of_inUse hv hk
  obtain ⟨configured, -, high⟩ := (covers_iff _ _).1 (poolOf_covers pool)
  exact absurd (high.trans_le (ok.pools k configured).last) (not_lt.2 hh)

theorem Kept.sweepOne_holdsNothing (ok : Kept False toPointer none s) (hp : ¬ Online s p) (idle : IdleAt s p) :
    HoldsNothing (s.sweepOne p h) p h := by
  rcases hv : (s.record h).verifies with _ | _
  · obtain ⟨st, g, record, -⟩ := sweepFault_record_self (s := s) ok.ready h
    rw [State.sweepOne, if_pos (by rw [hv]; rfl)]
    exact holdsNothing_blank record
  · rcases hs : (s.record h).state with _ | k | k | ⟨k, reason⟩ <;>
      simp only [State.sweepOne, hv, hs, Bool.not_true, Bool.false_eq_true, if_false]
    case inUse =>
      split
      · next hold => exact fun _ => hold
      · have ready : (s.lowerCharge k h p).device = .ready := ok.ready
        have lowered : HoldsNothing ((s.lowerCharge k h p).writeRecord h ((s.record h).setHold p 0)) p h := by
          intro _
          rw [writeRecord_record_self ready]
          exact (setHold_hold _ p p 0).trans (if_pos rfl)
        have idle' : IdleAt (s.lowerCharge k h p) p :=
          idle.updPool k ((idle.pools k).follows (adjustCharge_follows s (s.pool k) h p (· - 1)) hp)
        exact (disposeIfDone_changes _ h).holdsNothing ready hp ⟨idle'.lease, idle'.pools⟩ lowered
    all_goals exact ok.holdsNothing (by rw [hs]; rfl)

theorem Kept.sweepAll_holdsNothing {hs : List HandleNo} (ok : Kept False toPointer none s) (hp : ¬ Online s p)
    (idle : IdleAt s p) (hh : h ∈ hs) : HoldsNothing (s.sweepAll p hs) p h := by
  induction hs generalizing s with
  | nil => cases hh
  | cons j hs ih =>
    have one := sweepOne_changes s p j
    have hp' : ¬ Online (s.sweepOne p j) p := fun online => hp ((one.staysPut.2 p).symm.trans online)
    have idle' : IdleAt (s.sweepOne p j) p := one.keep (P := fun u => ¬ Online u p → IdleAt u p)
      (fun a b d ha hb => d.idleAt (fun e => hb (d.changes.online e)) (ha fun e => hb (d.changes.online e)))
      (fun _ => idle) hp'
    rcases List.mem_cons.1 hh with rfl | hm
    · exact (sweepAll_changes p hs _).holdsNothing (ok.sweepOne p h).ready hp' idle'
        (ok.sweepOne_holdsNothing hp idle)
    · exact ih (ok.sweepOne p j) hp' idle' hm

theorem Kept.reclaimSlice_sweptInv (ok : Kept False toPointer none s) (serves : ServesOnline none s) (hs : SweptInv s)
    {n : Nat} (hm : (s.member p).membership = .reclaiming n) : SweptInv (s.reclaimSlice p n) := by
  rw [sweptInv_iff] at hs ⊢
  intro _ q h passed
  rw [reclaimSlice_membership] at passed
  have swept := sweepAll_changes p (List.range' n 16) s
  have hp : ¬ Online s p := fun online => by rw [online] at hm; cases hm
  change HoldsNothing (s.sweepAll p (List.range' n 16)) q h
  by_cases e : q = p
  · subst e
    rw [if_pos rfl] at passed
    rcases Nat.lt_or_ge h n with below | above
    · exact swept.holdsNothing ok.ready hp (serves q hp).1 (hs ok.ready q h (.inr ⟨n, hm, below⟩))
    rcases Nat.lt_or_ge h (n + 16) with inside | past
    · exact ok.sweepAll_holdsNothing hp (serves q hp).1 (List.mem_range'_1.2 ⟨above, inside⟩)
    · refine (ok.sweepAll q _).holdsNothing_above ?_
      rcases passed with hm' | ⟨m, hm', hl⟩ <;> split at hm'
      · cases hm'
      · next last => exact (not_lt.1 last).trans past
      · cases hm'
        exact absurd hl (not_lt.2 past)
      · cases hm'
  · rw [if_neg e] at passed
    exact swept.holdsNothing ok.ready passed.notOnline (serves q passed.notOnline).1 (hs ok.ready q h passed)

/-! ### The statement -/

/-- The device becomes READY with the last record written. -/
theorem Starting.record_initial {n : Nat} (st : Starting s n) (ready : (s.initializeRecord n).device = .ready)
    (h : HandleNo) : (s.initializeRecord n).record h = .initial := by
  have last : 4096 ≤ n + 1 := by
    by_contra more
    rw [show (s.initializeRecord n).device = .initializing (n + 1) from if_pos (not_le.1 more)] at ready
    cases ready
  rw [State.record, ready]
  exact st.write ((Nat.lt_or_ge h (n + 1)).imp_right last.trans)

theorem Event.sweptInv {c : Instr} (ev : Event c s t) (structured : StructureInv s) (serves : ServesOnline none s)
    (hs : SweptInv s) : SweptInv t := by
  cases ev with
  | changes _ _ _ ch => exact ch.sweptInv serves hs
  | answers _ _ _ _ _ _ a =>
    obtain ⟨u, st, d, ch, rfl⟩ := a
    exact (ch.sweptInv serves hs).congr rfl (fun _ => rfl) fun _ => .inr (.inl rfl)
  | waits _ _ _ _ _ _ _ w =>
    obtain ⟨u, k, ch, -, -, rfl⟩ := w
    exact (ch.sweptInv serves hs).congr rfl (fun _ => rfl) fun _ => .inr (.inl rfl)
  | departs _ _ _ _ _ l => exact l.sweptInv serves hs
  | departsAnswered _ _ _ _ _ _ _ _ _ _ l =>
    exact (l.sweptInv serves hs).congr rfl (fun _ => rfl) fun _ => .inr (.inl rfl)
  | joins _ p e st d _ _ =>
    refine hs.congr rfl (fun _ => rfl) fun q => ?_
    rw [answer_member, updMember_member]
    split
    · exact .inl rfl
    · exact .inr (.inl rfl)
  | sweeps _ _ p n hd hn _ =>
    exact ((kept_iff hd).2 ⟨structured, nofun⟩).reclaimSlice_sweptInv serves hs hn
  | queues => exact hs.congr rfl (fun _ => rfl) fun _ => .inr (.inl rfl)
  | captures _ _ _ _ ch => exact (ch.sweptInv serves hs).congr rfl (fun _ => rfl) fun _ => .inr (.inl rfl)
  | clockWork _ _ u _ w ch =>
    rcases w with rfl | rfl | ⟨n, hd, rfl⟩
    · exact ch.sweptInv (serves.congr rfl rfl rfl) (hs.congr rfl (fun _ => rfl) fun _ => .inr (.inl rfl))
    · exact ch.sweptInv (serves.congr rfl rfl rfl) (hs.congr rfl (fun _ => rfl) fun _ => .inr (.inl rfl))
    · refine ch.sweptInv (x := none) (serves.congr rfl rfl rfl) ((sweptInv_iff _).2 fun ready q h _ => ?_)
      exact holdsNothing_blank (((structureInv_starting hd).1 structured).record_initial ready h)
  | deviceReset => exact nofun

/-- Settles O59: elementary changes give no hold to a port that is not ONLINE, and a reclaim step sets the holds of its
slice to 0. -/
theorem sweptPortsHoldNothing : Obligations.SweptPortsHoldNothing := by
  intro s t structured serves hs hx
  rw [membershipInv_iff] at serves
  rw [step] at hx
  split at hx
  · cases hx
    exact hs
  · next i rest _ =>
    exact (exec_event hx).sweptInv (s := { s with pending := rest }) structured (serves.congr rfl rfl rfl) hs

end

end Sys2Proof.Machine
end
